-- ==== Sys2Proof/Word.lean ====
section
/-! DEFINITION. Words and word sizes of ARM-RT-DSP CORE (00_scope.md R5, R11). -/

namespace Sys2Proof

/-- A word is 32 bits, bit 0 the least significant (00_scope.md R11). -/
abbrev Word := BitVec 32

/-- An unsigned 8-bit header field: CH or IMM (30_encoding.md R72). -/
abbrev Byte := BitVec 8

/-- The two word sizes of the block: `.Q15` (W = 16) and `.Q31` (W = 32), 00_scope.md R5. -/
inductive WordSize where
  | q15
  | q31
deriving DecidableEq, Repr

end Sys2Proof
end

