-- ==== Sys2Proof/Syntax.lean ====
section
/-! DEFINITION. Commands, their header fields, and the instructions: one constructor for each of the
26 rows of spec/opcode_table.json (30_encoding.md R71 to R74). -/

namespace Sys2Proof

/-- A command as the host presents it: four 32-bit words, all always present (30_encoding.md R71). -/
structure Command where
  /-- `HDR`, the header. -/
  hdr : Word
  /-- Operand word `A`. -/
  a : Word
  /-- Operand word `B`. -/
  b : Word
  /-- Operand word `C`. -/
  c : Word
deriving DecidableEq, Repr

/-- The fields of a header word (30_encoding.md R72). -/
structure Header where
  /-- Bits 31:24. -/
  op : Byte
  /-- Bit 23: the word size, 0 for W = 16 and 1 for W = 32. -/
  w : Bool
  /-- Bit 22: the gain set, 0 for A and 1 for B. -/
  sel : Bool
  /-- Bit 21: round half up in the realign step. -/
  rnd : Bool
  /-- Bit 20: an INIT also zeroes the state vector. -/
  rst : Bool
  /-- Bit 19: a PIDUPD obeys the mask countdown. -/
  m : Bool
  /-- Bits 18:16, reserved. -/
  zero : BitVec 3
  /-- Bits 15:8: the channel number. -/
  ch : Byte
  /-- Bits 7:0: saturate bit width, ADC shift or register index. -/
  imm : Byte
deriving DecidableEq, Repr

/-- The fifteen defined opcodes (30_encoding.md R73). -/
inductive Opcode where
  | ssat32 | ssat64
  | qadd | qsub | mul | mulsat | abs | abssat
  | piinit | piupd | pidinit | pidupd
  | adcq
  | rdreg | wrreg
deriving DecidableEq, Repr

/-- The gain set a controller command names with `SEL` (10_state.md R24). -/
inductive GainSet where
  | a
  | b
deriving DecidableEq, Repr

/-- The instructions. An operand word is carried whole: a `.Q15` meaning reads its low 16 bits
(00_scope.md R13). Operand words that a form does not read are not part of it (30_encoding.md R76). -/
inductive Instr where
  /-- SSAT32 (40_saturate_add.md R101): `bits` from IMM, value `a`. -/
  | ssat32 (bits : Byte) (a : Word)
  /-- SSAT64 (R102): `bits` from IMM, value `{b, a}`. -/
  | ssat64 (bits : Byte) (a b : Word)
  /-- QADD.Q15 (R103). -/
  | qaddQ15 (a b : Word)
  /-- QADD.Q31 (R103). -/
  | qaddQ31 (a b : Word)
  /-- QSUB.Q15 (R104). -/
  | qsubQ15 (a b : Word)
  /-- QSUB.Q31 (R104). -/
  | qsubQ31 (a b : Word)
  /-- MUL.Q15 (41_multiply_abs.md R120). -/
  | mulQ15 (a b : Word)
  /-- MUL.Q31 (R120). -/
  | mulQ31 (a b : Word)
  /-- MULSAT.Q15 (R121). -/
  | mulsatQ15 (a b : Word)
  /-- MULSAT.Q31 (R121). -/
  | mulsatQ31 (a b : Word)
  /-- ABS.Q15 (R122). -/
  | absQ15 (a : Word)
  /-- ABS.Q31 (R122). -/
  | absQ31 (a : Word)
  /-- ABSSAT.Q15 (R123). -/
  | abssatQ15 (a : Word)
  /-- ABSSAT.Q31 (R123). -/
  | abssatQ31 (a : Word)
  /-- PIINIT.Q15 (42_pi_controller.md R140). -/
  | piinitQ15 (sel : GainSet) (rst : Bool) (ch : Byte)
  /-- PIINIT.Q31 (R140). -/
  | piinitQ31 (sel : GainSet) (rst : Bool) (ch : Byte)
  /-- PIUPD.Q15 (R141), input sample `a`. -/
  | piupdQ15 (sel : GainSet) (rnd : Bool) (ch : Byte) (a : Word)
  /-- PIUPD.Q31 (R141). -/
  | piupdQ31 (sel : GainSet) (rnd : Bool) (ch : Byte) (a : Word)
  /-- PIDINIT.Q15 (43_pid_controller.md R160). -/
  | pidinitQ15 (sel : GainSet) (rst : Bool) (ch : Byte)
  /-- PIDINIT.Q31 (R160). -/
  | pidinitQ31 (sel : GainSet) (rst : Bool) (ch : Byte)
  /-- PIDUPD.Q15 (R161), input sample `a`. -/
  | pidupdQ15 (sel : GainSet) (rnd m : Bool) (ch : Byte) (a : Word)
  /-- PIDUPD.Q31 (R161). -/
  | pidupdQ31 (sel : GainSet) (rnd m : Bool) (ch : Byte) (a : Word)
  /-- ADCQ.Q15 (44_adc_convert.md R190): shift `sh`, raw sample `a`, offset `b`, slope `c`. -/
  | adcqQ15 (sh : Byte) (a b c : Word)
  /-- ADCQ.Q31 (R190). -/
  | adcqQ31 (sh : Byte) (a b c : Word)
  /-- RDREG (45_register_access.md R201). -/
  | rdreg (ch idx : Byte)
  /-- WRREG (R202), value `a`. -/
  | wrreg (ch idx : Byte) (a : Word)
deriving DecidableEq, Repr

end Sys2Proof
end

