-- ==== Sys2Proof/WellFormed.lean ====
section
/-! DEFINITION. Which terms of `Instr` an encoding exists for. The only operand of an instruction
that its encoding bounds is the shift of ADCQ (30_encoding.md R75 (c), R79). Channel numbers and
register indexes are not bounded here: a command with a channel number at or above NCH, or an index
above 21, is encodable and has an outcome of its own (30_encoding.md R78). -/

namespace Sys2Proof

/-- The checks on an instruction's operands: ADCQ's shift is below the word size. -/
def Instr.wf : Instr → Bool
  | .adcqQ15 sh _ _ _ => decide (sh.toNat < 16)
  | .adcqQ31 sh _ _ _ => decide (sh.toNat < 32)
  | .ssat32 .. | .ssat64 .. | .qaddQ15 .. | .qaddQ31 .. | .qsubQ15 .. | .qsubQ31 ..
  | .mulQ15 .. | .mulQ31 .. | .mulsatQ15 .. | .mulsatQ31 ..
  | .absQ15 .. | .absQ31 .. | .abssatQ15 .. | .abssatQ31 ..
  | .piinitQ15 .. | .piinitQ31 .. | .piupdQ15 .. | .piupdQ31 ..
  | .pidinitQ15 .. | .pidinitQ31 .. | .pidupdQ15 .. | .pidupdQ31 ..
  | .rdreg .. | .wrreg .. => true

end Sys2Proof
end

