-- ==== Sys2Proof/Decode.lean ====
section
/-! DEFINITION. The decoder, from the four words of a command to an instruction or a named reason why
the command is illegal (30_encoding.md R72 to R78), and after it the encoder (R82). -/

namespace Sys2Proof

/-! ## Header fields -/

/-- The fields of a header word (30_encoding.md R72). -/
def Header.ofWord (h : Word) : Header where
  op := h.extractLsb' 24 8
  w := h.getLsbD 23
  sel := h.getLsbD 22
  rnd := h.getLsbD 21
  rst := h.getLsbD 20
  m := h.getLsbD 19
  zero := h.extractLsb' 16 3
  ch := h.extractLsb' 8 8
  imm := h.extractLsb' 0 8

/-- The header word with the given fields, each at its place (30_encoding.md R72, R82). -/
def Header.toWord (h : Header) : Word :=
  (h.op.setWidth 32 <<< 24) ||| ((BitVec.ofBool h.w).setWidth 32 <<< 23)
    ||| ((BitVec.ofBool h.sel).setWidth 32 <<< 22) ||| ((BitVec.ofBool h.rnd).setWidth 32 <<< 21)
    ||| ((BitVec.ofBool h.rst).setWidth 32 <<< 20) ||| ((BitVec.ofBool h.m).setWidth 32 <<< 19)
    ||| (h.zero.setWidth 32 <<< 16) ||| (h.ch.setWidth 32 <<< 8) ||| h.imm.setWidth 32

/-! ## Opcodes and the fields each uses -/

/-- The opcode a value of `OP` stands for; every value outside the table is undefined (R73). -/
def Opcode.ofByte (b : Byte) : Option Opcode :=
  match b.toNat with
  | 0x01 => some .ssat32
  | 0x02 => some .ssat64
  | 0x10 => some .qadd
  | 0x11 => some .qsub
  | 0x12 => some .mul
  | 0x13 => some .mulsat
  | 0x14 => some .abs
  | 0x15 => some .abssat
  | 0x20 => some .piinit
  | 0x21 => some .piupd
  | 0x22 => some .pidinit
  | 0x23 => some .pidupd
  | 0x30 => some .adcq
  | 0x40 => some .rdreg
  | 0x41 => some .wrreg
  | _ => none

/-- The value of `OP` of an opcode (R73). -/
def Opcode.byte : Opcode → Byte
  | .ssat32 => 0x01
  | .ssat64 => 0x02
  | .qadd => 0x10
  | .qsub => 0x11
  | .mul => 0x12
  | .mulsat => 0x13
  | .abs => 0x14
  | .abssat => 0x15
  | .piinit => 0x20
  | .piupd => 0x21
  | .pidinit => 0x22
  | .pidupd => 0x23
  | .adcq => 0x30
  | .rdreg => 0x40
  | .wrreg => 0x41

/-- The opcodes whose `W` field is marked `use` in the table of R74. -/
def Opcode.usesW : Opcode → Bool
  | .ssat32 | .ssat64 | .rdreg | .wrreg => false
  | .qadd | .qsub | .mul | .mulsat | .abs | .abssat
  | .piinit | .piupd | .pidinit | .pidupd | .adcq => true

/-- The opcodes whose `SEL` field is used (R74). -/
def Opcode.usesSel : Opcode → Bool
  | .piinit | .piupd | .pidinit | .pidupd => true
  | .ssat32 | .ssat64 | .qadd | .qsub | .mul | .mulsat | .abs | .abssat
  | .adcq | .rdreg | .wrreg => false

/-- The opcodes whose `RND` field is used (R74). -/
def Opcode.usesRnd : Opcode → Bool
  | .piupd | .pidupd => true
  | .ssat32 | .ssat64 | .qadd | .qsub | .mul | .mulsat | .abs | .abssat
  | .piinit | .pidinit | .adcq | .rdreg | .wrreg => false

/-- The opcodes whose `RST` field is used (R74). -/
def Opcode.usesRst : Opcode → Bool
  | .piinit | .pidinit => true
  | .ssat32 | .ssat64 | .qadd | .qsub | .mul | .mulsat | .abs | .abssat
  | .piupd | .pidupd | .adcq | .rdreg | .wrreg => false

/-- The opcodes whose `M` field is used (R74). -/
def Opcode.usesM : Opcode → Bool
  | .pidupd => true
  | .ssat32 | .ssat64 | .qadd | .qsub | .mul | .mulsat | .abs | .abssat
  | .piinit | .piupd | .pidinit | .adcq | .rdreg | .wrreg => false

/-- The opcodes whose `CH` field is used (R74). -/
def Opcode.usesCh : Opcode → Bool
  | .piinit | .piupd | .pidinit | .pidupd | .rdreg | .wrreg => true
  | .ssat32 | .ssat64 | .qadd | .qsub | .mul | .mulsat | .abs | .abssat | .adcq => false

/-- The opcodes whose `IMM` field is used (R74). -/
def Opcode.usesImm : Opcode → Bool
  | .ssat32 | .ssat64 | .adcq | .rdreg | .wrreg => true
  | .qadd | .qsub | .mul | .mulsat | .abs | .abssat
  | .piinit | .piupd | .pidinit | .pidupd => false

/-- Every field that R74 marks `0` for the opcode is zero; `ZERO` is so for all of them. -/
def Header.fits (h : Header) (op : Opcode) : Bool :=
  (op.usesW || !h.w) && (op.usesSel || !h.sel) && (op.usesRnd || !h.rnd)
    && (op.usesRst || !h.rst) && (op.usesM || !h.m) && decide (h.zero = 0)
    && (op.usesCh || decide (h.ch = 0)) && (op.usesImm || decide (h.imm = 0))

/-! ## The decoder -/

/-- Why a command is illegal (30_encoding.md R75): each is answered with STATUS 1. -/
inductive Illegal where
  /-- (a) `OP` is none of the fifteen opcodes. -/
  | undefinedOp
  /-- (b) a header field that must be zero for the opcode is not. -/
  | reservedField
  /-- (c) an ADCQ whose shift is not below its word size. -/
  | adcShift
deriving DecidableEq, Repr

/-- The gain set `SEL` names (10_state.md R24). -/
def GainSet.ofSel (sel : Bool) : GainSet := if sel then .b else .a

/-- The value of `SEL` that names a gain set. -/
def GainSet.sel : GainSet → Bool
  | .a => false
  | .b => true

/-- The instruction of an opcode, once the must-be-zero fields are checked: the word size from `W`,
the flags, `CH` and `IMM` as they stand (R79), the operand words that R74 says are read. -/
def Opcode.instr (op : Opcode) (h : Header) (c : Command) : Except Illegal Instr :=
  match op, h.w with
  | .ssat32, _ => .ok (.ssat32 h.imm c.a)
  | .ssat64, _ => .ok (.ssat64 h.imm c.a c.b)
  | .qadd, false => .ok (.qaddQ15 c.a c.b)
  | .qadd, true => .ok (.qaddQ31 c.a c.b)
  | .qsub, false => .ok (.qsubQ15 c.a c.b)
  | .qsub, true => .ok (.qsubQ31 c.a c.b)
  | .mul, false => .ok (.mulQ15 c.a c.b)
  | .mul, true => .ok (.mulQ31 c.a c.b)
  | .mulsat, false => .ok (.mulsatQ15 c.a c.b)
  | .mulsat, true => .ok (.mulsatQ31 c.a c.b)
  | .abs, false => .ok (.absQ15 c.a)
  | .abs, true => .ok (.absQ31 c.a)
  | .abssat, false => .ok (.abssatQ15 c.a)
  | .abssat, true => .ok (.abssatQ31 c.a)
  | .piinit, false => .ok (.piinitQ15 (.ofSel h.sel) h.rst h.ch)
  | .piinit, true => .ok (.piinitQ31 (.ofSel h.sel) h.rst h.ch)
  | .piupd, false => .ok (.piupdQ15 (.ofSel h.sel) h.rnd h.ch c.a)
  | .piupd, true => .ok (.piupdQ31 (.ofSel h.sel) h.rnd h.ch c.a)
  | .pidinit, false => .ok (.pidinitQ15 (.ofSel h.sel) h.rst h.ch)
  | .pidinit, true => .ok (.pidinitQ31 (.ofSel h.sel) h.rst h.ch)
  | .pidupd, false => .ok (.pidupdQ15 (.ofSel h.sel) h.rnd h.m h.ch c.a)
  | .pidupd, true => .ok (.pidupdQ31 (.ofSel h.sel) h.rnd h.m h.ch c.a)
  | .adcq, false => if h.imm.toNat < 16 then .ok (.adcqQ15 h.imm c.a c.b c.c) else .error .adcShift
  | .adcq, true => if h.imm.toNat < 32 then .ok (.adcqQ31 h.imm c.a c.b c.c) else .error .adcShift
  | .rdreg, _ => .ok (.rdreg h.ch h.imm)
  | .wrreg, _ => .ok (.wrreg h.ch h.imm c.a)

/-- Steps (1) and (2) of the decode order of 30_encoding.md R78: the instruction a command is, or
the first check it fails. Steps (3) and (4), the channel and the register index, belong to the
instruction's meaning. -/
def decode (c : Command) : Except Illegal Instr :=
  let h := Header.ofWord c.hdr
  match Opcode.ofByte h.op with
  | none => .error .undefinedOp
  | some op => if h.fits op then op.instr h c else .error .reservedField

/-! ## The encoder -/

/-- The header of an opcode with every other field zero. -/
def Header.ofOpcode (op : Opcode) : Header where
  op := op.byte
  w := false
  sel := false
  rnd := false
  rst := false
  m := false
  zero := 0
  ch := 0
  imm := 0

/-- The header fields of an instruction, by the forms of 30_encoding.md R82. -/
def Instr.header : Instr → Header
  | .ssat32 bits _ => { Header.ofOpcode .ssat32 with imm := bits }
  | .ssat64 bits _ _ => { Header.ofOpcode .ssat64 with imm := bits }
  | .qaddQ15 _ _ => Header.ofOpcode .qadd
  | .qaddQ31 _ _ => { Header.ofOpcode .qadd with w := true }
  | .qsubQ15 _ _ => Header.ofOpcode .qsub
  | .qsubQ31 _ _ => { Header.ofOpcode .qsub with w := true }
  | .mulQ15 _ _ => Header.ofOpcode .mul
  | .mulQ31 _ _ => { Header.ofOpcode .mul with w := true }
  | .mulsatQ15 _ _ => Header.ofOpcode .mulsat
  | .mulsatQ31 _ _ => { Header.ofOpcode .mulsat with w := true }
  | .absQ15 _ => Header.ofOpcode .abs
  | .absQ31 _ => { Header.ofOpcode .abs with w := true }
  | .abssatQ15 _ => Header.ofOpcode .abssat
  | .abssatQ31 _ => { Header.ofOpcode .abssat with w := true }
  | .piinitQ15 g rst ch => { Header.ofOpcode .piinit with sel := g.sel, rst := rst, ch := ch }
  | .piinitQ31 g rst ch =>
    { Header.ofOpcode .piinit with w := true, sel := g.sel, rst := rst, ch := ch }
  | .piupdQ15 g rnd ch _ => { Header.ofOpcode .piupd with sel := g.sel, rnd := rnd, ch := ch }
  | .piupdQ31 g rnd ch _ =>
    { Header.ofOpcode .piupd with w := true, sel := g.sel, rnd := rnd, ch := ch }
  | .pidinitQ15 g rst ch => { Header.ofOpcode .pidinit with sel := g.sel, rst := rst, ch := ch }
  | .pidinitQ31 g rst ch =>
    { Header.ofOpcode .pidinit with w := true, sel := g.sel, rst := rst, ch := ch }
  | .pidupdQ15 g rnd m ch _ =>
    { Header.ofOpcode .pidupd with sel := g.sel, rnd := rnd, m := m, ch := ch }
  | .pidupdQ31 g rnd m ch _ =>
    { Header.ofOpcode .pidupd with w := true, sel := g.sel, rnd := rnd, m := m, ch := ch }
  | .adcqQ15 sh _ _ _ => { Header.ofOpcode .adcq with imm := sh }
  | .adcqQ31 sh _ _ _ => { Header.ofOpcode .adcq with w := true, imm := sh }
  | .rdreg ch idx => { Header.ofOpcode .rdreg with ch := ch, imm := idx }
  | .wrreg ch idx _ => { Header.ofOpcode .wrreg with ch := ch, imm := idx }

/-- The operand words `A`, `B`, `C` of an instruction, unused ones zero (30_encoding.md R82). -/
def Instr.operands : Instr → Word × Word × Word
  | .ssat32 _ a | .absQ15 a | .absQ31 a | .abssatQ15 a | .abssatQ31 a
  | .piupdQ15 _ _ _ a | .piupdQ31 _ _ _ a | .pidupdQ15 _ _ _ _ a | .pidupdQ31 _ _ _ _ a
  | .wrreg _ _ a => (a, 0, 0)
  | .ssat64 _ a b | .qaddQ15 a b | .qaddQ31 a b | .qsubQ15 a b | .qsubQ31 a b
  | .mulQ15 a b | .mulQ31 a b | .mulsatQ15 a b | .mulsatQ31 a b => (a, b, 0)
  | .adcqQ15 _ a b c | .adcqQ31 _ a b c => (a, b, c)
  | .piinitQ15 _ _ _ | .piinitQ31 _ _ _ | .pidinitQ15 _ _ _ | .pidinitQ31 _ _ _
  | .rdreg _ _ => (0, 0, 0)

/-- The four words of an instruction. -/
def encode (i : Instr) : Command where
  hdr := i.header.toWord
  a := i.operands.1
  b := i.operands.2.1
  c := i.operands.2.2

/-! ## Commands from the opcode table's numbering of bits -/

/-- The command whose bits are `n`, HDR the least significant 32 of them, then A, B and C (log 11). -/
def Command.ofBits (n : Nat) : Command where
  hdr := BitVec.ofNat 32 n
  a := BitVec.ofNat 32 (n / 2 ^ 32)
  b := BitVec.ofNat 32 (n / 2 ^ 64)
  c := BitVec.ofNat 32 (n / 2 ^ 96)

/-- The instruction the decoder reads from the `nbits` bits `w`, every higher bit zero. -/
def decodeTableWord (nbits w : Nat) : Option Instr :=
  match decode (Command.ofBits (w % 2 ^ nbits)) with
  | .ok i => some i
  | .error _ => none

end Sys2Proof
end

