-- ==== Sys2Proof/Machine/Operands.lean ====
section
/-! DEFINITION. Word-size constants, operand views and the primitive functions of 00_scope.md R5,
R10, R12 and R13. Integers are unbounded; every reduction is written out (R11). -/

namespace Sys2Proof.Machine

/-- `W`, the number of bits of a word size (00_scope.md R5). -/
def bitsOf : WordSize → Nat
  | .q15 => 16
  | .q31 => 32

/-- `S`, the fractional bits of the accumulator format and the realign shift (00_scope.md R5). -/
def shiftOf : WordSize → Nat
  | .q15 => 7
  | .q31 => 15

/-- `sW(X)`: the low `W` bits of an operand word as a signed integer (00_scope.md R13). -/
def sW (w : WordSize) (x : Word) : Int :=
  match w with
  | .q15 => (x.setWidth 16).toInt
  | .q31 => x.toInt

/-- `uW(X)`: the low `W` bits of an operand word as an unsigned integer (00_scope.md R13). -/
def uW (w : WordSize) (x : Word) : Int :=
  match w with
  | .q15 => (x.setWidth 16).toNat
  | .q31 => x.toNat

/-- `wrap_N(v)`: two's-complement truncation to `n` bits, read as a signed integer (R12). -/
def wrap (n : Nat) (v : Int) : Int := (BitVec.ofInt n v).toInt

/-- `asr(v, k) = floor(v / 2^k)`, the arithmetic right shift (R10, R12). -/
def asr (v : Int) (k : Nat) : Int := v / 2 ^ k

/-- `bits_32(v)`: the 32-bit pattern of an integer (R12). -/
def bits32 (v : Int) : Word := BitVec.ofInt 32 v

/-- `bits_64(v)`: the 64-bit pattern of an integer (R12). -/
def bits64 (v : Int) : BitVec 64 := BitVec.ofInt 64 v

end Sys2Proof.Machine
end

