-- ==== Sys2Proof/Machine/Arith.lean ====
section
/-! DEFINITION. The numeric operations shared by the commands: the signed saturate of
40_saturate_add.md R100, the add and subtract of R103 and R104, the multiply and absolute-value
operators of 41_multiply_abs.md, and the accumulator and realign steps of 42_pi_controller.md. -/

namespace Sys2Proof.Machine

/-- `ssat(v, bits, N)`: the exact clamp for `bits` in [1, N], `v` unchanged otherwise (R100). -/
def ssat (v : Int) (bits n : Nat) : Int :=
  if 1 ≤ bits ∧ bits ≤ n then
    if v < -(2 ^ (bits - 1)) then -(2 ^ (bits - 1))
    else if v > 2 ^ (bits - 1) - 1 then 2 ^ (bits - 1) - 1
    else v
  else v

/-- Saturating add at `W` bits: exact sum, then clamp (40_saturate_add.md R103). -/
def satAdd (w : WordSize) (x y : Int) : Int := ssat (x + y) (bitsOf w) 64

/-- Saturating subtract at `W` bits: exact difference, then clamp (R104). -/
def satSub (w : WordSize) (x y : Int) : Int := ssat (x - y) (bitsOf w) 64

/-- `mul`: exact product, floor shift by `W - 1`, truncated to `W` bits (41_multiply_abs.md R120). -/
def mulWrap (w : WordSize) (x y : Int) : Int := wrap (bitsOf w) (asr (x * y) (bitsOf w - 1))

/-- `mulsat`: floor shift by `W`, clamp to `W - 1` bits, doubled (R121). -/
def mulSat (w : WordSize) (x y : Int) : Int :=
  ssat (asr (x * y) (bitsOf w)) (bitsOf w - 1) (bitsOf w) * 2

/-- `abs`: negate if negative, wrapping (R122). -/
def absWrap (w : WordSize) (x : Int) : Int := if x < 0 then wrap (bitsOf w) (-x) else x

/-- `abs_sat`: the largest value where the negation overflowed (R123). -/
def absSat (w : WordSize) (x : Int) : Int :=
  if x ≥ 0 then x
  else if wrap (bitsOf w) (-x) < 0 then 2 ^ (bitsOf w - 1) - 1
  else wrap (bitsOf w) (-x)

/-- The double-width accumulator holds the exact sum wrapped to `2W` bits (42_pi_controller.md R142). -/
def accumulate (w : WordSize) (e : Int) : Int := wrap (2 * bitsOf w) e

/-- Steps 3 and 4 of the update: optional half of the last kept bit's weight, in accumulator
arithmetic, floor shift by `S`, clamp to `W` bits (R143). -/
def realign (w : WordSize) (rnd : Bool) (acc : Int) : Int :=
  ssat (asr (if rnd then wrap (2 * bitsOf w) (acc + 2 ^ (shiftOf w - 1)) else acc) (shiftOf w))
    (bitsOf w) (2 * bitsOf w)

end Sys2Proof.Machine
end

