-- ==== Sys2Proof/Machine/Flags.lean ====
section
/-! DEFINITION. The block has no status flags, condition codes or sticky saturation flag
(10_state.md R23). All that reports how a command went is the STATUS of its response
(60_exceptions.md R211), which is not state. -/

namespace Sys2Proof.Machine

/-- The STATUS codes a response can carry; 4 to 15 are reserved and never produced (R211). -/
inductive Status where
  /-- The command was executed. -/
  | ok
  /-- `OP` undefined, a must-be-zero field non-zero, or an ADCQ shift out of range. -/
  | illegalCommand
  /-- The opcode uses `CH` and `CH >= NCH`. -/
  | badChannel
  /-- RDREG or WRREG with an index above 21. -/
  | badRegister
deriving DecidableEq, Repr

/-- The 4-bit code of a STATUS (R211). -/
def statusCode : Status → BitVec 4
  | .ok => 0
  | .illegalCommand => 1
  | .badChannel => 2
  | .badRegister => 3

end Sys2Proof.Machine
end

