-- ==== Sys2Proof/Config.lean ====
section
/-! DEFINITION. What an implementation of the block fixes (00_scope.md R6) and the one free value:
the contents of a register after a Reset event (10_state.md R30, 70_reset_and_hazards.md R240). -/

namespace Sys2Proof

/-- The two open parameters of the block, 00_scope.md R6. -/
structure Config where
  /-- `NCH`, the number of controller channels; the spec bounds it by `1 <= NCH <= 256`. -/
  nch : Nat
  /-- `DFSH`, the shift of the derivative low-pass filter, `0 <= DFSH <= 31`. -/
  dfsh : Fin 32
deriving DecidableEq, Repr

/-- The parameters `State.reset` is built with. DESIGN CHOICE (log 1, log 2): the spec leaves both
open; these are the values its test vectors use (`NCH >= 2`, `DFSH = 2`). -/
def Config.ofReset : Config := { nch := 2, dfsh := 2 }

/-- FREE VALUE (log 4): the pattern a channel register holds after a Reset event. The arguments are
how many Reset events were taken before, the channel number, the register index and the pattern the
register held before. No body: nothing can be proved of its value, so it may be zero, the old
pattern or anything else, and may differ between registers and between events (10_state.md R30). -/
opaque Config.afterReset (event ch idx : Nat) (before : Word) : Word

end Sys2Proof
end

