-- ==== Sys2Proof/Machine/State.lean ====
section
/-! DEFINITION. The state of the block: the channel register file (10_state.md R20, R24), the open
parameters beside it, and what the model needs to show the command port (30_encoding.md R70, R77). -/

namespace Sys2Proof.Machine

/-! ## The channel register file -/

/-- The eight registers that a channel holds once per gain set (10_state.md R24 to R26). -/
structure Bank where
  /-- KP, proportional gain. -/
  kp : Word
  /-- KI, integral gain. -/
  ki : Word
  /-- KD, derivative gain. -/
  kd : Word
  /-- A0, derived coefficient. -/
  a0 : Word
  /-- A1, derived coefficient. -/
  a1 : Word
  /-- A0D, derivative coefficient. -/
  a0d : Word
  /-- A1D, derivative coefficient. -/
  a1d : Word
  /-- A2D, derivative coefficient. -/
  a2d : Word
deriving DecidableEq, Repr

/-- The 22 registers of one channel (10_state.md R24). -/
structure Channel where
  /-- Set A: KP_A to A2D_A, indexes 0 to 7. -/
  setA : Bank
  /-- Set B: KP_B to A2D_B, indexes 8 to 15. -/
  setB : Bank
  /-- X1 (16), previous input x[n-1]. -/
  x1 : Word
  /-- X2 (17), the input before that, x[n-2]. -/
  x2 : Word
  /-- Y1 (18), previous output y[n-1]. -/
  y1 : Word
  /-- DRAW (19), raw derivative state. -/
  draw : Word
  /-- DFILT (20), filtered derivative state. -/
  dfilt : Word
  /-- MASK (21), the hold countdown (10_state.md R28). -/
  mask : Word
deriving DecidableEq, Repr

/-- The names of the registers of a bank. -/
inductive BankReg where
  | kp | ki | kd | a0 | a1 | a0d | a1d | a2d
deriving DecidableEq, Repr

/-- The names of the 22 registers of a channel (10_state.md R24): `gain .a .kp` is KP_A. -/
inductive Reg where
  | gain (set : GainSet) (r : BankReg)
  | x1 | x2 | y1 | draw | dfilt | mask
deriving DecidableEq, Repr

/-! ## The command port -/

/-- What the host or the environment presents at the port: a command (30_encoding.md R70) or the
Reset event, which falls between two commands (70_reset_and_hazards.md R240). -/
inductive Input where
  | command (c : Command)
  | reset
deriving DecidableEq, Repr

/-- A response: a 4-bit STATUS and a 64-bit RES (30_encoding.md R77). -/
structure Response where
  status : BitVec 4
  res : BitVec 64
deriving DecidableEq, Repr

/-! ## The state -/

/-- The state. `chans` is the architectural state of the block, all of it; `dfsh` and the length of
`chans` are its two open parameters (00_scope.md R6); the last three fields are the model's own. -/
structure State where
  /-- The channels 0 to NCH - 1; `NCH` is the length of this list (log 1). -/
  chans : List Channel
  /-- `DFSH`, the shift of the derivative filter: a parameter, no step changes it (log 2). -/
  dfsh : Fin 32
  /-- What will be presented at the port, next first (log 5). -/
  inbox : List Input
  /-- The response the last step returned; none if it ran no command (log 6). -/
  resp : Option Response
  /-- How many Reset events were taken, for the free value `Config.afterReset` (log 4). -/
  resets : Nat
deriving DecidableEq, Repr

/-- `NCH`, the number of channels (00_scope.md R6). -/
abbrev State.nch (s : State) : Nat := s.chans.length

/-- The reasons a step can fault: none. No operand value makes a command fail (60_exceptions.md
R210), the step is total on every command (30_encoding.md R70), and a malformed command is answered
with a STATUS (R212), which is a next state. No constructor, so nothing raises one: safe (log 15). -/
inductive Fault where
deriving DecidableEq, Repr

/-- The reasons a step can be refused. -/
inductive Refusal where
  /-- An instruction without a meaning in this model. Raised only by an arm of `exec` that says so;
  no arm of this model does, since all 26 rows have their meaning. Safe: nothing is claimed of it. -/
  | notModelled (mnemonic : String)
deriving DecidableEq, Repr

/-- The three outcomes of a step of this machine. -/
abbrev Result := Host.Outcome State Fault Refusal

/-! ## Reset -/

/-- A bank with every register 0. -/
def Bank.zero : Bank :=
  { kp := 0, ki := 0, kd := 0, a0 := 0, a1 := 0, a0d := 0, a1d := 0, a2d := 0 }

/-- A channel with every register 0. -/
def Channel.zero : Channel :=
  { setA := .zero, setB := .zero, x1 := 0, x2 := 0, y1 := 0, draw := 0, dfilt := 0, mask := 0 }

/-- The block with parameters `cfg`, nothing presented and nothing answered, every channel register
0. The spec gives no register a reset value (10_state.md R30): the zeros are a DESIGN CHOICE (log 3). -/
def State.resetWith (cfg : Config) : State :=
  { chans := List.replicate cfg.nch .zero, dfsh := cfg.dfsh, inbox := [], resp := none, resets := 0 }

/-- The machine right after reset (70_reset_and_hazards.md R240), with the parameters of
`Config.ofReset`. -/
def State.reset : State := .resetWith .ofReset

end Sys2Proof.Machine
end

