-- ==== Sys2Proof/Machine/Ops.lean ====
section
/-! DEFINITION. The named operations every meaning is written with: reading and writing channel
registers (10_state.md R24, R29; 20_memory.md R52, R53), ending a command normally or by rejection
(00_scope.md R14; 60_exceptions.md R212), and the Reset event (70_reset_and_hazards.md R240). -/

namespace Sys2Proof.Machine

/-! ## Registers of a channel -/

/-- The register with an index; indexes 22 to 255 hold nothing (10_state.md R24, 20_memory.md R56). -/
def Reg.ofIndex (idx : Byte) : Option Reg :=
  match idx.toNat with
  | 0 => some (.gain .a .kp)
  | 1 => some (.gain .a .ki)
  | 2 => some (.gain .a .kd)
  | 3 => some (.gain .a .a0)
  | 4 => some (.gain .a .a1)
  | 5 => some (.gain .a .a0d)
  | 6 => some (.gain .a .a1d)
  | 7 => some (.gain .a .a2d)
  | 8 => some (.gain .b .kp)
  | 9 => some (.gain .b .ki)
  | 10 => some (.gain .b .kd)
  | 11 => some (.gain .b .a0)
  | 12 => some (.gain .b .a1)
  | 13 => some (.gain .b .a0d)
  | 14 => some (.gain .b .a1d)
  | 15 => some (.gain .b .a2d)
  | 16 => some .x1
  | 17 => some .x2
  | 18 => some .y1
  | 19 => some .draw
  | 20 => some .dfilt
  | 21 => some .mask
  | _ => none

/-- The place of a register in its bank. -/
def BankReg.offset : BankReg → Nat
  | .kp => 0
  | .ki => 1
  | .kd => 2
  | .a0 => 3
  | .a1 => 4
  | .a0d => 5
  | .a1d => 6
  | .a2d => 7

/-- The index of a register (10_state.md R24: set B index = set A index + 8). -/
def Reg.index : Reg → Nat
  | .gain .a r => r.offset
  | .gain .b r => r.offset + 8
  | .x1 => 16
  | .x2 => 17
  | .y1 => 18
  | .draw => 19
  | .dfilt => 20
  | .mask => 21

/-- The pattern a register of a bank holds. -/
def Bank.read (k : Bank) : BankReg → Word
  | .kp => k.kp
  | .ki => k.ki
  | .kd => k.kd
  | .a0 => k.a0
  | .a1 => k.a1
  | .a0d => k.a0d
  | .a1d => k.a1d
  | .a2d => k.a2d

/-- The bank with one register replaced. -/
def Bank.write (k : Bank) (r : BankReg) (v : Word) : Bank :=
  match r with
  | .kp => { k with kp := v }
  | .ki => { k with ki := v }
  | .kd => { k with kd := v }
  | .a0 => { k with a0 := v }
  | .a1 => { k with a1 := v }
  | .a0d => { k with a0d := v }
  | .a1d => { k with a1d := v }
  | .a2d => { k with a2d := v }

/-- `RegRead`: the 32-bit pattern a register holds, with no side effect (20_memory.md R52). -/
def Channel.read (c : Channel) : Reg → Word
  | .gain .a r => c.setA.read r
  | .gain .b r => c.setB.read r
  | .x1 => c.x1
  | .x2 => c.x2
  | .y1 => c.y1
  | .draw => c.draw
  | .dfilt => c.dfilt
  | .mask => c.mask

/-- `RegWrite`: one register replaced whole, nothing else changed (20_memory.md R53). -/
def Channel.write (c : Channel) (r : Reg) (v : Word) : Channel :=
  match r with
  | .gain .a q => { c with setA := c.setA.write q v }
  | .gain .b q => { c with setB := c.setB.write q v }
  | .x1 => { c with x1 := v }
  | .x2 => { c with x2 := v }
  | .y1 => { c with y1 := v }
  | .draw => { c with draw := v }
  | .dfilt => { c with dfilt := v }
  | .mask => { c with mask := v }

/-- `rd(ch, NAME, W)`: a register's low `W` bits as a signed integer (00_scope.md R14). -/
def Channel.rd (w : WordSize) (c : Channel) (r : Reg) : Int := sW w (c.read r)

/-- `R[ch].NAME <- bits_32(v)`: a signed result, sign-extended to 32 bits (00_scope.md R14). -/
def Channel.wr (c : Channel) (r : Reg) (v : Int) : Channel := c.write r (bits32 v)

/-! ## Ending a command -/

/-- `respond(v)`: STATUS 0, RES the signed result in 64 bits (00_scope.md R14, 30_encoding.md R77). -/
def respond (v : Int) (s : State) : State :=
  { s with resp := some { status := statusCode .ok, res := bits64 v } }

/-- `respond_raw(p)`: STATUS 0, RES the 32-bit pattern zero-extended (00_scope.md R14). -/
def respondRaw (p : Word) (s : State) : State :=
  { s with resp := some { status := statusCode .ok, res := p.setWidth 64 } }

/-- `reject(code)`, what this block has in the place of an exception entry (60_exceptions.md R212,
R216): no register changes, nothing is saved, RES is 0, and the next command is taken as ever. There
is no return from it. -/
def reject (code : Status) (s : State) : State :=
  { s with resp := some { status := statusCode code, res := 0 } }

/-! ## Channels -/

/-- The state with channel `ch` replaced; without effect if there is no such channel. -/
def setChannel (ch : Byte) (c : Channel) (s : State) : State :=
  { s with chans := s.chans.set ch.toNat c }

/-- A command that uses `CH`: `BAD_CHANNEL` if `CH >= NCH` (step (3) of 30_encoding.md R78), else
what `k` does with the channel. -/
def withChannel (ch : Byte) (k : Channel → State → State) (s : State) : State :=
  match s.chans[ch.toNat]? with
  | none => reject .badChannel s
  | some c => k c s

/-- A controller command: `f` gives the channel after it and the signed result. -/
def onChannel (ch : Byte) (f : Channel → Channel × Int) (s : State) : State :=
  withChannel ch (fun c s => respond (f c).2 (setChannel ch (f c).1 s)) s

/-- A register access: `BAD_REGISTER` if the index is above 21 (step (4) of R78), after the channel
check, else what `k` does with the channel and the register. -/
def withRegister (ch idx : Byte) (k : Channel → Reg → State → State) (s : State) : State :=
  withChannel ch (fun c s =>
    match Reg.ofIndex idx with
    | none => reject .badRegister s
    | some r => k c r s) s

/-! ## The Reset event -/

/-- The bank with every register replaced by a function of its place and its pattern. -/
def Bank.mapRegs (f : BankReg → Word → Word) (k : Bank) : Bank where
  kp := f .kp k.kp
  ki := f .ki k.ki
  kd := f .kd k.kd
  a0 := f .a0 k.a0
  a1 := f .a1 k.a1
  a0d := f .a0d k.a0d
  a1d := f .a1d k.a1d
  a2d := f .a2d k.a2d

/-- The channel with every register replaced by a function of its name and its pattern. -/
def Channel.mapRegs (f : Reg → Word → Word) (c : Channel) : Channel where
  setA := c.setA.mapRegs fun r => f (.gain .a r)
  setB := c.setB.mapRegs fun r => f (.gain .b r)
  x1 := f .x1 c.x1
  x2 := f .x2 c.x2
  y1 := f .y1 c.y1
  draw := f .draw c.draw
  dfilt := f .dfilt c.dfilt
  mask := f .mask c.mask

/-- The Reset event (70_reset_and_hazards.md R240): every channel register holds an unspecified
pattern, a free value (log 4); the parameters are what they were; there is nothing else to reset.
The event has no response. -/
def applyReset (s : State) : State :=
  { s with
    chans := s.chans.mapIdx fun ch c =>
      c.mapRegs fun r before => Config.afterReset s.resets ch r.index before
    resp := none
    resets := s.resets + 1 }

/-- Between commands the block does nothing and holds its registers (60_exceptions.md R225): no
command, no response (log 7). -/
def idle (s : State) : State := { s with resp := none }

end Sys2Proof.Machine
end

