-- ==== Sys2Proof/Machine/AdcConvert.lean ====
section
/-! DEFINITION. ADCQ (44_adc_convert.md). It reads and writes no register. -/

namespace Sys2Proof.Machine

/-- The conversion: raw count plus signed offset, left shift kept to `W` bits, then the saturating
multiply by the slope (R190). -/
def adcConvert (w : WordSize) (sh : Nat) (a b c : Word) : Int :=
  mulSat w (wrap (bitsOf w) ((uW w a + sW w b) * 2 ^ sh)) (sW w c)

/-- ADCQ.w (R190). A shift of the word size or more is an illegal command: the decoder already
refuses it, and the meaning answers the same for a term no command decodes to (log 10). -/
def adcq (w : WordSize) (sh : Byte) (a b c : Word) (s : State) : State :=
  if sh.toNat < bitsOf w then respond (adcConvert w sh.toNat a b c) s else reject .illegalCommand s

/-- ADCQ.Q15 (R190). -/
def execAdcqQ15 (sh : Byte) (a b c : Word) (s : State) : Result := .next (adcq .q15 sh a b c s)

/-- ADCQ.Q31 (R190). -/
def execAdcqQ31 (sh : Byte) (a b c : Word) (s : State) : Result := .next (adcq .q31 sh a b c s)

end Sys2Proof.Machine
end

