-- ==== Sys2Proof/Machine/Multiply.lean ====
section
/-! DEFINITION. MUL, MULSAT, ABS, ABSSAT (41_multiply_abs.md). None reads or writes a register. -/

namespace Sys2Proof.Machine

/-- MUL.w (R120). -/
def mul (w : WordSize) (a b : Word) (s : State) : State := respond (mulWrap w (sW w a) (sW w b)) s

/-- MULSAT.w (R121). -/
def mulsat (w : WordSize) (a b : Word) (s : State) : State := respond (mulSat w (sW w a) (sW w b)) s

/-- MUL.Q15 (R120). -/
def execMulQ15 (a b : Word) (s : State) : Result := .next (mul .q15 a b s)

/-- MUL.Q31 (R120). -/
def execMulQ31 (a b : Word) (s : State) : Result := .next (mul .q31 a b s)

/-- MULSAT.Q15 (R121). -/
def execMulsatQ15 (a b : Word) (s : State) : Result := .next (mulsat .q15 a b s)

/-- MULSAT.Q31 (R121). -/
def execMulsatQ31 (a b : Word) (s : State) : Result := .next (mulsat .q31 a b s)

/-- ABS.Q15 (R122). -/
def execAbsQ15 (a : Word) (s : State) : Result := .next (respond (absWrap .q15 (sW .q15 a)) s)

/-- ABS.Q31 (R122). -/
def execAbsQ31 (a : Word) (s : State) : Result := .next (respond (absWrap .q31 (sW .q31 a)) s)

/-- ABSSAT.Q15 (R123). -/
def execAbssatQ15 (a : Word) (s : State) : Result := .next (respond (absSat .q15 (sW .q15 a)) s)

/-- ABSSAT.Q31 (R123). -/
def execAbssatQ31 (a : Word) (s : State) : Result := .next (respond (absSat .q31 (sW .q31 a)) s)

end Sys2Proof.Machine
end

