-- ==== Sys2Proof/Machine/PiController.lean ====
section
/-! DEFINITION. PIINIT and PIUPD (42_pi_controller.md), and the proportional+integral branch that
PIDUPD shares with PIUPD (43_pid_controller.md R162). -/

namespace Sys2Proof.Machine

/-- The coefficients A0 = Kp + Ki and A1 = 0 - Kp of one gain set, saturating (R140). -/
def piCoefficients (w : WordSize) (g : GainSet) (c : Channel) : Channel :=
  let kp := c.rd w (.gain g .kp)
  let ki := c.rd w (.gain g .ki)
  (c.wr (.gain g .a0) (satAdd w kp ki)).wr (.gain g .a1) (satSub w 0 kp)

/-- The PI state vector (X1, Y1) zeroed (10_state.md R27). -/
def piZeroState (c : Channel) : Channel := (c.write .x1 0).write .y1 0

/-- PIINIT.w (R140). -/
def piinit (w : WordSize) (g : GainSet) (rst : Bool) (c : Channel) : Channel × Int :=
  (if rst then piZeroState (piCoefficients w g c) else piCoefficients w g c, 0)

/-- Steps 1 to 4 of the update on input `x`: the accumulator over A0, A1, X1, Y1, realigned (R141,
R142, R143). -/
def piBranch (w : WordSize) (g : GainSet) (rnd : Bool) (x : Int) (c : Channel) : Int :=
  let a0 := c.rd w (.gain g .a0)
  let a1 := c.rd w (.gain g .a1)
  let x1 := c.rd w .x1
  let y1 := c.rd w .y1
  realign w rnd (accumulate w (a0 * x + a1 * x1 + y1 * 2 ^ shiftOf w))

/-- PIUPD.w (R141). -/
def piupd (w : WordSize) (g : GainSet) (rnd : Bool) (a : Word) (c : Channel) : Channel × Int :=
  let x := sW w a
  let y := piBranch w g rnd x c
  ((c.wr .x1 x).wr .y1 y, y)

/-- PIINIT.Q15 (R140). -/
def execPiinitQ15 (g : GainSet) (rst : Bool) (ch : Byte) (s : State) : Result :=
  .next (onChannel ch (piinit .q15 g rst) s)

/-- PIINIT.Q31 (R140). -/
def execPiinitQ31 (g : GainSet) (rst : Bool) (ch : Byte) (s : State) : Result :=
  .next (onChannel ch (piinit .q31 g rst) s)

/-- PIUPD.Q15 (R141). -/
def execPiupdQ15 (g : GainSet) (rnd : Bool) (ch : Byte) (a : Word) (s : State) : Result :=
  .next (onChannel ch (piupd .q15 g rnd a) s)

/-- PIUPD.Q31 (R141). -/
def execPiupdQ31 (g : GainSet) (rnd : Bool) (ch : Byte) (a : Word) (s : State) : Result :=
  .next (onChannel ch (piupd .q31 g rnd a) s)

end Sys2Proof.Machine
end

