-- ==== Sys2Proof/Machine/PidController.lean ====
section
/-! DEFINITION. PIDINIT and PIDUPD (43_pid_controller.md). -/

namespace Sys2Proof.Machine

/-- The derivative coefficients A0D = Kd, A1D = -2 Kd clamped, A2D = Kd of one gain set (R160). -/
def pidCoefficients (w : WordSize) (g : GainSet) (c : Channel) : Channel :=
  let kd := c.rd w (.gain g .kd)
  ((c.wr (.gain g .a0d) kd).wr (.gain g .a1d) (ssat (-2 * kd) (bitsOf w) 64)).wr (.gain g .a2d) kd

/-- The PID state vector (X1, X2, Y1, DRAW, DFILT) zeroed (10_state.md R27). -/
def pidZeroState (c : Channel) : Channel :=
  ((((c.write .x1 0).write .x2 0).write .y1 0).write .draw 0).write .dfilt 0

/-- PIDINIT.w (R160). -/
def pidinit (w : WordSize) (g : GainSet) (rst : Bool) (c : Channel) : Channel × Int :=
  let d := pidCoefficients w g (piCoefficients w g c)
  (if rst then pidZeroState d else d, 0)

/-- The raw derivative of a sample: the accumulator over A0D, A1D, A2D, X1, X2, floor shift by `S`
without rounding, clamp to `W` bits (R163). -/
def rawDerivative (w : WordSize) (g : GainSet) (x : Int) (c : Channel) : Int :=
  let a0d := c.rd w (.gain g .a0d)
  let a1d := c.rd w (.gain g .a1d)
  let a2d := c.rd w (.gain g .a2d)
  let x1 := c.rd w .x1
  let x2 := c.rd w .x2
  ssat (asr (accumulate w (a0d * x + a1d * x1 + a2d * x2)) (shiftOf w)) (bitsOf w) (2 * bitsOf w)

/-- The derivative low-pass filter (R164). -/
def filterDerivative (dfsh : Nat) (df draw : Int) : Int := df + asr (draw - df) dfsh

/-- A computed PID sample: the else branch of R161, all reads from `c`, the channel before it. -/
def pidCompute (w : WordSize) (g : GainSet) (rnd : Bool) (dfsh : Nat) (a : Word) (c : Channel) :
    Channel × Int :=
  let x := sW w a
  let x1 := c.rd w .x1
  let ypi := piBranch w g rnd x c
  let draw := rawDerivative w g x c
  let df := filterDerivative dfsh (c.rd w .dfilt) draw
  let out := satAdd w ypi df
  (((((c.wr .x2 x1).wr .x1 x).wr .y1 out).wr .draw draw).wr .dfilt df, out)

/-- A held PID sample: MASK counts down, the result is Y1, nothing else changes (R166). -/
def pidHold (w : WordSize) (c : Channel) : Channel × Int :=
  (c.wr .mask ((c.read .mask).toInt - 1), c.rd w .y1)

/-- PIDUPD.w (R161): held if `M = 1` and MASK, a signed 32-bit integer, is positive. -/
def pidupd (w : WordSize) (g : GainSet) (rnd m : Bool) (dfsh : Nat) (a : Word) (c : Channel) :
    Channel × Int :=
  if m ∧ (c.read .mask).toInt > 0 then pidHold w c else pidCompute w g rnd dfsh a c

/-- PIDINIT.Q15 (R160). -/
def execPidinitQ15 (g : GainSet) (rst : Bool) (ch : Byte) (s : State) : Result :=
  .next (onChannel ch (pidinit .q15 g rst) s)

/-- PIDINIT.Q31 (R160). -/
def execPidinitQ31 (g : GainSet) (rst : Bool) (ch : Byte) (s : State) : Result :=
  .next (onChannel ch (pidinit .q31 g rst) s)

/-- PIDUPD.Q15 (R161). -/
def execPidupdQ15 (g : GainSet) (rnd m : Bool) (ch : Byte) (a : Word) (s : State) : Result :=
  .next (onChannel ch (pidupd .q15 g rnd m s.dfsh.val a) s)

/-- PIDUPD.Q31 (R161). -/
def execPidupdQ31 (g : GainSet) (rnd m : Bool) (ch : Byte) (a : Word) (s : State) : Result :=
  .next (onChannel ch (pidupd .q31 g rnd m s.dfsh.val a) s)

end Sys2Proof.Machine
end

