-- ==== Sys2Proof/Machine/RegAccess.lean ====
section
/-! DEFINITION. RDREG and WRREG (45_register_access.md), the block's only loads and stores. -/

namespace Sys2Proof.Machine

/-- RDREG (R201): the raw 32-bit pattern, zero-extended. -/
def execRdreg (ch idx : Byte) (s : State) : Result :=
  .next (withRegister ch idx (fun c r => respondRaw (c.read r)) s)

/-- WRREG (R202): the register replaced whole; RES is 0. -/
def execWrreg (ch idx : Byte) (a : Word) (s : State) : Result :=
  .next (withRegister ch idx (fun c r s => respond 0 (setChannel ch (c.write r a) s)) s)

end Sys2Proof.Machine
end

