-- ==== Sys2Proof/Machine/Saturate.lean ====
section
/-! DEFINITION. SSAT32, SSAT64, QADD, QSUB (40_saturate_add.md). None reads or writes a register. -/

namespace Sys2Proof.Machine

/-- SSAT32 (R101): `ssat(sext_32(A), IMM, 32)`. -/
def execSsat32 (bits : Byte) (a : Word) (s : State) : Result :=
  .next (respond (ssat a.toInt bits.toNat 32) s)

/-- SSAT64 (R102): `ssat(sext_64({B, A}), IMM, 64)`, `B` the high word. -/
def execSsat64 (bits : Byte) (a b : Word) (s : State) : Result :=
  .next (respond (ssat (b ++ a).toInt bits.toNat 64) s)

/-- QADD.w (R103). -/
def qadd (w : WordSize) (a b : Word) (s : State) : State := respond (satAdd w (sW w a) (sW w b)) s

/-- QSUB.w (R104). -/
def qsub (w : WordSize) (a b : Word) (s : State) : State := respond (satSub w (sW w a) (sW w b)) s

/-- QADD.Q15 (R103). -/
def execQaddQ15 (a b : Word) (s : State) : Result := .next (qadd .q15 a b s)

/-- QADD.Q31 (R103). -/
def execQaddQ31 (a b : Word) (s : State) : Result := .next (qadd .q31 a b s)

/-- QSUB.Q15 (R104). -/
def execQsubQ15 (a b : Word) (s : State) : Result := .next (qsub .q15 a b s)

/-- QSUB.Q31 (R104). -/
def execQsubQ31 (a b : Word) (s : State) : Result := .next (qsub .q31 a b s)

end Sys2Proof.Machine
end

