-- ==== Sys2Proof/Machine/Dispatch.lean ====
section
/-! DEFINITION. One arm per instruction, each one call of its meaning. -/

namespace Sys2Proof.Machine

-- Every row of spec/opcode_table.json, in the table's order.
def exec (i : Instr) (s : State) : Host.Outcome State Fault Refusal :=
  match i with
  | .ssat32 bits a => Sys2Proof.Machine.execSsat32 bits a s
  | .ssat64 bits a b => Sys2Proof.Machine.execSsat64 bits a b s
  | .qaddQ15 a b => Sys2Proof.Machine.execQaddQ15 a b s
  | .qaddQ31 a b => Sys2Proof.Machine.execQaddQ31 a b s
  | .qsubQ15 a b => Sys2Proof.Machine.execQsubQ15 a b s
  | .qsubQ31 a b => Sys2Proof.Machine.execQsubQ31 a b s
  | .mulQ15 a b => Sys2Proof.Machine.execMulQ15 a b s
  | .mulQ31 a b => Sys2Proof.Machine.execMulQ31 a b s
  | .mulsatQ15 a b => Sys2Proof.Machine.execMulsatQ15 a b s
  | .mulsatQ31 a b => Sys2Proof.Machine.execMulsatQ31 a b s
  | .absQ15 a => Sys2Proof.Machine.execAbsQ15 a s
  | .absQ31 a => Sys2Proof.Machine.execAbsQ31 a s
  | .abssatQ15 a => Sys2Proof.Machine.execAbssatQ15 a s
  | .abssatQ31 a => Sys2Proof.Machine.execAbssatQ31 a s
  | .piinitQ15 sel rst ch => Sys2Proof.Machine.execPiinitQ15 sel rst ch s
  | .piinitQ31 sel rst ch => Sys2Proof.Machine.execPiinitQ31 sel rst ch s
  | .piupdQ15 sel rnd ch a => Sys2Proof.Machine.execPiupdQ15 sel rnd ch a s
  | .piupdQ31 sel rnd ch a => Sys2Proof.Machine.execPiupdQ31 sel rnd ch a s
  | .pidinitQ15 sel rst ch => Sys2Proof.Machine.execPidinitQ15 sel rst ch s
  | .pidinitQ31 sel rst ch => Sys2Proof.Machine.execPidinitQ31 sel rst ch s
  | .pidupdQ15 sel rnd m ch a => Sys2Proof.Machine.execPidupdQ15 sel rnd m ch a s
  | .pidupdQ31 sel rnd m ch a => Sys2Proof.Machine.execPidupdQ31 sel rnd m ch a s
  | .adcqQ15 sh a b c => Sys2Proof.Machine.execAdcqQ15 sh a b c s
  | .adcqQ31 sh a b c => Sys2Proof.Machine.execAdcqQ31 sh a b c s
  | .rdreg ch idx => Sys2Proof.Machine.execRdreg ch idx s
  | .wrreg ch idx a => Sys2Proof.Machine.execWrreg ch idx a s

end Sys2Proof.Machine
end

