-- ==== Sys2Proof/Machine/Port.lean ====
section
/-! DEFINITION. The command port (30_encoding.md R70, R78): what the block does with what is
presented next. -/

namespace Sys2Proof.Machine

/-- One command: an illegal one is rejected with ILLEGAL_COMMAND, whichever check failed (R75, R78
steps (1) and (2)); any other runs its instruction. -/
def runCommand (c : Command) (s : State) : Result :=
  match decode c with
  | .ok i => exec i s
  | .error _ => .next (reject .illegalCommand s)

/-- One step of the block: the next input is taken from the port and acted on whole (R70; 20_memory.md
R55, R58). A Reset event falls between two commands (70_reset_and_hazards.md R240). -/
def stepPort (s : State) : Result :=
  match s.inbox with
  | [] => .next (idle s)
  | .reset :: rest => .next (applyReset { s with inbox := rest })
  | .command c :: rest => runCommand c { s with inbox := rest }

/-- The host presents a command: it is the next thing the port takes (log 5). -/
def present (c : Command) (s : State) : State := { s with inbox := .command c :: s.inbox }

end Sys2Proof.Machine
end

