-- ==== Sys2Proof/Machine/Step.lean ====
section
/-! DEFINITION. The step of the machine, and the placing of an instruction where the step takes it. -/

namespace Sys2Proof.Machine

/-- One step: what is next at the command port (30_encoding.md R70). -/
def step (s : State) : Host.Outcome State Fault Refusal := stepPort s

/-- `s` with the command whose low `nbits` bits are `w`, every higher bit zero, presented at the
port, so that the next step runs exactly it (log 5, log 11). -/
def State.withFetchWord (s : State) (nbits w : Nat) : State :=
  present (Command.ofBits (w % 2 ^ nbits)) s

end Sys2Proof.Machine
end

