-- ==== Sys2Proof/Machine/Datapath.lean ====
section
/-! DEFINITION. A second formulation of the spec's computations, which the statements compare the
machine with: two's-complement bit vectors of `n` and `2n` bits in the place of wrapped integers, a
clamp by `max` and `min`, headers by the shifts of 30_encoding.md R82, and the opcode table by mask
and match. No meaning uses any of it. `n` is W and `k` is S: (16, 7) or (32, 15). -/

namespace Sys2Proof.Machine

/-! ## Numbers -/

/-- The low `n` bits of a word as a signed integer (00_scope.md R13). -/
def signed (n : Nat) (x : Word) : Int := (x.setWidth n).toInt

/-- The low `n` bits of a word, sign-extended to `2n` bits: a factor of a double-width product. -/
def wide (n : Nat) (x : Word) : BitVec (2 * n) := (x.setWidth n).signExtend (2 * n)

/-- The nearest `n`-bit signed integer. -/
def clampTo (n : Nat) (v : Int) : Int := max (-(2 ^ (n - 1))) (min (2 ^ (n - 1) - 1) v)

/-- The single-width saturating product (41_multiply_abs.md R121): twice the floor of the product
over `2^n`, but for the one pair of factors that the clamp acts on. -/
def refMulsat (n : Nat) (x y : Int) : Int :=
  if x = -(2 ^ (n - 1)) ∧ y = -(2 ^ (n - 1)) then 2 ^ (n - 1) - 2 else 2 * (x * y / 2 ^ n)

/-! ## The controllers on bit vectors -/

/-- Optional rounding, arithmetic shift and clamp of a `2n`-bit accumulator (42_pi_controller.md R143). -/
def refRealign (n k : Nat) (rnd : Bool) (acc : BitVec (2 * n)) : Int :=
  clampTo n (((if rnd then acc + BitVec.ofNat (2 * n) (2 ^ (k - 1)) else acc).sshiftRight k).toInt)

/-- The output of the proportional+integral branch for input word `a` (R141, R142). -/
def refPi (n k : Nat) (g : GainSet) (rnd : Bool) (a : Word) (c : Channel) : Int :=
  refRealign n k rnd
    (wide n (c.read (.gain g .a0)) * wide n a
      + wide n (c.read (.gain g .a1)) * wide n (c.read .x1)
      + (wide n (c.read .y1) <<< k))

/-- The raw derivative for input word `a` (43_pid_controller.md R163). -/
def refDraw (n k : Nat) (g : GainSet) (a : Word) (c : Channel) : Int :=
  refRealign n k false
    (wide n (c.read (.gain g .a0d)) * wide n a
      + wide n (c.read (.gain g .a1d)) * wide n (c.read .x1)
      + wide n (c.read (.gain g .a2d)) * wide n (c.read .x2))

/-- The filtered derivative for input word `a` (R164). -/
def refFilter (n k dfsh : Nat) (g : GainSet) (a : Word) (c : Channel) : Int :=
  signed n (c.read .dfilt) + (refDraw n k g a c - signed n (c.read .dfilt)) / 2 ^ dfsh

/-- The combined output for input word `a` (R165). -/
def refPid (n k dfsh : Nat) (g : GainSet) (rnd : Bool) (a : Word) (c : Channel) : Int :=
  clampTo n (refPi n k g rnd a c + refFilter n k dfsh g a c)

/-- The registers of a channel after PIINIT (42_pi_controller.md R140). -/
def refPiinit (n : Nat) (g : GainSet) (rst : Bool) (c : Channel) (r : Reg) : Word :=
  if r = .gain g .a0 then
    .ofInt 32 (clampTo n (signed n (c.read (.gain g .kp)) + signed n (c.read (.gain g .ki))))
  else if r = .gain g .a1 then .ofInt 32 (clampTo n (-signed n (c.read (.gain g .kp))))
  else if rst ∧ (r = .x1 ∨ r = .y1) then 0
  else c.read r

/-- The registers of a channel after PIUPD (R141 step 5). -/
def refPiupd (n k : Nat) (g : GainSet) (rnd : Bool) (a : Word) (c : Channel) (r : Reg) : Word :=
  if r = .x1 then (a.setWidth n).signExtend 32
  else if r = .y1 then .ofInt 32 (refPi n k g rnd a c)
  else c.read r

/-- The registers of a channel after PIDINIT (43_pid_controller.md R160). -/
def refPidinit (n : Nat) (g : GainSet) (rst : Bool) (c : Channel) (r : Reg) : Word :=
  if r = .gain g .a0d ∨ r = .gain g .a2d then ((c.read (.gain g .kd)).setWidth n).signExtend 32
  else if r = .gain g .a1d then .ofInt 32 (clampTo n (-2 * signed n (c.read (.gain g .kd))))
  else if rst ∧ (r = .x2 ∨ r = .draw ∨ r = .dfilt) then 0
  else refPiinit n g rst c r

/-- Whether PIDUPD holds: `M = 1` and MASK, a signed 32-bit integer, is positive (R166). -/
def refHolds (m : Bool) (c : Channel) : Prop := m = true ∧ 0 < (c.read .mask).toInt

/-- The registers of a channel after a held PIDUPD (R166). -/
def refPidHeld (c : Channel) (r : Reg) : Word :=
  if r = .mask then c.read .mask - 1 else c.read r

/-- The registers of a channel after a computed PIDUPD (R161, R167). -/
def refPidupd (n k dfsh : Nat) (g : GainSet) (rnd : Bool) (a : Word) (c : Channel) (r : Reg) : Word :=
  if r = .x2 then ((c.read .x1).setWidth n).signExtend 32
  else if r = .x1 then (a.setWidth n).signExtend 32
  else if r = .y1 then .ofInt 32 (refPid n k dfsh g rnd a c)
  else if r = .draw then .ofInt 32 (refDraw n k g a c)
  else if r = .dfilt then .ofInt 32 (refFilter n k dfsh g a c)
  else c.read r

/-- The ADC conversion (44_adc_convert.md R190). -/
def refAdc (n sh : Nat) (a b c : Word) : Int :=
  refMulsat n (BitVec.ofInt n (((a.setWidth n).toNat + signed n b) * 2 ^ sh)).toInt (signed n c)

/-! ## Headers and the opcode table -/

/-- The header of a form: its row's match, its flags, CH and IMM at their places (30_encoding.md R82). -/
def headerWord (base : Word) (sel rnd rst m : Bool) (ch imm : Byte) : Word :=
  base ||| ((BitVec.ofBool sel).setWidth 32 <<< 22) ||| ((BitVec.ofBool rnd).setWidth 32 <<< 21)
    ||| ((BitVec.ofBool rst).setWidth 32 <<< 20) ||| ((BitVec.ofBool m).setWidth 32 <<< 19)
    ||| (ch.setWidth 32 <<< 8) ||| imm.setWidth 32

/-- A row of spec/opcode_table.json: its mask and match, the bound its "constraints" put on IMM as a
shift (256 where there is none), and whether they bound CH and IMM. -/
structure OpcodeRow where
  mask : Word
  value : Word
  shiftBound : Nat := 256
  usesCh : Bool := false
  usesReg : Bool := false
deriving DecidableEq, Repr

/-- The rows of spec/opcode_table.json, in its order. -/
def opcodeTable : List OpcodeRow :=
  [ { mask := 0xFFFFFF00, value := 0x01000000 }, { mask := 0xFFFFFF00, value := 0x02000000 },
    { mask := 0xFFFFFFFF, value := 0x10000000 }, { mask := 0xFFFFFFFF, value := 0x10800000 },
    { mask := 0xFFFFFFFF, value := 0x11000000 }, { mask := 0xFFFFFFFF, value := 0x11800000 },
    { mask := 0xFFFFFFFF, value := 0x12000000 }, { mask := 0xFFFFFFFF, value := 0x12800000 },
    { mask := 0xFFFFFFFF, value := 0x13000000 }, { mask := 0xFFFFFFFF, value := 0x13800000 },
    { mask := 0xFFFFFFFF, value := 0x14000000 }, { mask := 0xFFFFFFFF, value := 0x14800000 },
    { mask := 0xFFFFFFFF, value := 0x15000000 }, { mask := 0xFFFFFFFF, value := 0x15800000 },
    { mask := 0xFFAF00FF, value := 0x20000000, usesCh := true },
    { mask := 0xFFAF00FF, value := 0x20800000, usesCh := true },
    { mask := 0xFF9F00FF, value := 0x21000000, usesCh := true },
    { mask := 0xFF9F00FF, value := 0x21800000, usesCh := true },
    { mask := 0xFFAF00FF, value := 0x22000000, usesCh := true },
    { mask := 0xFFAF00FF, value := 0x22800000, usesCh := true },
    { mask := 0xFF9700FF, value := 0x23000000, usesCh := true },
    { mask := 0xFF9700FF, value := 0x23800000, usesCh := true },
    { mask := 0xFFFFFF00, value := 0x30000000, shiftBound := 16 },
    { mask := 0xFFFFFF00, value := 0x30800000, shiftBound := 32 },
    { mask := 0xFFFF0000, value := 0x40000000, usesCh := true, usesReg := true },
    { mask := 0xFFFF0000, value := 0x41000000, usesCh := true, usesReg := true } ]

/-- A header is of a row: `(HDR & mask) == match`, then the shift check (30_encoding.md R78). -/
def OpcodeRow.accepts (row : OpcodeRow) (hdr : Word) : Bool :=
  decide (hdr &&& row.mask = row.value) && decide ((hdr.extractLsb' 0 8).toNat < row.shiftBound)

/-- The STATUS of a command by the opcode table, in the order of checks of R78 and
60_exceptions.md R213, on a block of `nch` channels. -/
def refStatus (nch : Nat) (hdr : Word) : BitVec 4 :=
  match opcodeTable.find? (·.accepts hdr) with
  | none => 1
  | some row =>
    if row.usesCh ∧ nch ≤ (hdr.extractLsb' 8 8).toNat then 2
    else if row.usesReg ∧ 21 < (hdr.extractLsb' 0 8).toNat then 3
    else 0

end Sys2Proof.Machine
end

