-- ==== Sys2Proof/Safety.lean ====
section
/-! DEFINITION. The terms the statements are made of: what a register holds, how a state differs
from another, the invariant, and which instructions name a channel, read a gain or read an operand
word. -/

namespace Sys2Proof

/-! ## Instructions by what they touch -/

/-- The channel an instruction names, if it uses `CH` (30_encoding.md R74). -/
def Instr.channel? : Instr → Option Byte
  | .piinitQ15 _ _ ch | .piinitQ31 _ _ ch | .piupdQ15 _ _ ch _ | .piupdQ31 _ _ ch _
  | .pidinitQ15 _ _ ch | .pidinitQ31 _ _ ch | .pidupdQ15 _ _ _ ch _ | .pidupdQ31 _ _ _ ch _
  | .rdreg ch _ | .wrreg ch _ _ => some ch
  | .ssat32 .. | .ssat64 .. | .qaddQ15 .. | .qaddQ31 .. | .qsubQ15 .. | .qsubQ31 ..
  | .mulQ15 .. | .mulQ31 .. | .mulsatQ15 .. | .mulsatQ31 .. | .absQ15 .. | .absQ31 ..
  | .abssatQ15 .. | .abssatQ31 .. | .adcqQ15 .. | .adcqQ31 .. => none

/-- The instructions that read a gain register: the INIT commands, and RDREG, which can read any
register (10_state.md R24, R25). -/
def Instr.readsGains : Instr → Bool
  | .piinitQ15 .. | .piinitQ31 .. | .pidinitQ15 .. | .pidinitQ31 .. | .rdreg .. => true
  | .ssat32 .. | .ssat64 .. | .qaddQ15 .. | .qaddQ31 .. | .qsubQ15 .. | .qsubQ31 ..
  | .mulQ15 .. | .mulQ31 .. | .mulsatQ15 .. | .mulsatQ31 .. | .absQ15 .. | .absQ31 ..
  | .abssatQ15 .. | .abssatQ31 .. | .piupdQ15 .. | .piupdQ31 .. | .pidupdQ15 .. | .pidupdQ31 ..
  | .adcqQ15 .. | .adcqQ31 .. | .wrreg .. => false

/-- Whether operand word `A` is read (30_encoding.md R74). -/
def Instr.readsA : Instr → Bool
  | .piinitQ15 .. | .piinitQ31 .. | .pidinitQ15 .. | .pidinitQ31 .. | .rdreg .. => false
  | .ssat32 .. | .ssat64 .. | .qaddQ15 .. | .qaddQ31 .. | .qsubQ15 .. | .qsubQ31 ..
  | .mulQ15 .. | .mulQ31 .. | .mulsatQ15 .. | .mulsatQ31 .. | .absQ15 .. | .absQ31 ..
  | .abssatQ15 .. | .abssatQ31 .. | .piupdQ15 .. | .piupdQ31 .. | .pidupdQ15 .. | .pidupdQ31 ..
  | .adcqQ15 .. | .adcqQ31 .. | .wrreg .. => true

/-- Whether operand word `B` is read (30_encoding.md R74). -/
def Instr.readsB : Instr → Bool
  | .ssat64 .. | .qaddQ15 .. | .qaddQ31 .. | .qsubQ15 .. | .qsubQ31 .. | .mulQ15 .. | .mulQ31 ..
  | .mulsatQ15 .. | .mulsatQ31 .. | .adcqQ15 .. | .adcqQ31 .. => true
  | .ssat32 .. | .absQ15 .. | .absQ31 .. | .abssatQ15 .. | .abssatQ31 ..
  | .piinitQ15 .. | .piinitQ31 .. | .piupdQ15 .. | .piupdQ31 ..
  | .pidinitQ15 .. | .pidinitQ31 .. | .pidupdQ15 .. | .pidupdQ31 .. | .rdreg .. | .wrreg .. => false

/-- Whether operand word `C` is read (30_encoding.md R74). -/
def Instr.readsC : Instr → Bool
  | .adcqQ15 .. | .adcqQ31 .. => true
  | .ssat32 .. | .ssat64 .. | .qaddQ15 .. | .qaddQ31 .. | .qsubQ15 .. | .qsubQ31 ..
  | .mulQ15 .. | .mulQ31 .. | .mulsatQ15 .. | .mulsatQ31 .. | .absQ15 .. | .absQ31 ..
  | .abssatQ15 .. | .abssatQ31 .. | .piinitQ15 .. | .piinitQ31 .. | .piupdQ15 .. | .piupdQ31 ..
  | .pidinitQ15 .. | .pidinitQ31 .. | .pidupdQ15 .. | .pidupdQ31 .. | .rdreg .. | .wrreg .. => false

/-- The word with bits 31:16 zeroed. -/
def lowHalf (x : Word) : Word := (x.setWidth 16).setWidth 32

/-- The instruction with bits 31:16 of the operand words of a `.Q15` form zeroed; every other
instruction as it is (30_encoding.md R76). -/
def Instr.lowOperands : Instr → Instr
  | .qaddQ15 a b => .qaddQ15 (lowHalf a) (lowHalf b)
  | .qsubQ15 a b => .qsubQ15 (lowHalf a) (lowHalf b)
  | .mulQ15 a b => .mulQ15 (lowHalf a) (lowHalf b)
  | .mulsatQ15 a b => .mulsatQ15 (lowHalf a) (lowHalf b)
  | .absQ15 a => .absQ15 (lowHalf a)
  | .abssatQ15 a => .abssatQ15 (lowHalf a)
  | .piupdQ15 g rnd ch a => .piupdQ15 g rnd ch (lowHalf a)
  | .pidupdQ15 g rnd m ch a => .pidupdQ15 g rnd m ch (lowHalf a)
  | .adcqQ15 sh a b c => .adcqQ15 sh (lowHalf a) (lowHalf b) (lowHalf c)
  | i => i

/-- PIUPD on channel `ch` with an input sample of zero (42_pi_controller.md R147). -/
def Instr.zeroSampleOn (ch : Byte) : Instr → Bool
  | .piupdQ15 _ _ n a => decide (n = ch) && decide (a.setWidth 16 = 0)
  | .piupdQ31 _ _ n a => decide (n = ch) && decide (a = 0)
  | _ => false

/-- PIDUPD on channel `ch` with `M = 1` (43_pid_controller.md R166). -/
def Instr.maskedSampleOn (ch : Byte) : Instr → Bool
  | .pidupdQ15 _ _ m n _ | .pidupdQ31 _ _ m n _ => m && decide (n = ch)
  | _ => false

/-- The bits of Y1 that a PIDUPD answers when it holds (43_pid_controller.md R166). -/
def Instr.sampleBits : Instr → Nat
  | .pidupdQ15 .. => 16
  | _ => 32

end Sys2Proof

namespace Sys2Proof.Machine

/-! ## States -/

/-- The pattern register `r` of channel `ch` holds; none if there is no such channel. -/
def State.reg? (s : State) (ch : Nat) (r : Reg) : Option Word := s.chans[ch]?.map (·.read r)

/-- `s` with the response STATUS 0 and RES `res`, nothing else changed. -/
def State.answered (s : State) (res : BitVec 64) : State :=
  { s with resp := some { status := 0, res := res } }

/-- `s` with the response of a rejection (60_exceptions.md R212): STATUS `code` and RES 0, nothing
else changed. -/
def State.rejected (s : State) (code : BitVec 4) : State :=
  { s with resp := some { status := code, res := 0 } }

/-- `t` is `s` after a command on channel `ch` that answers `res` and leaves `f r` in each register
`r` of that channel: every register of every other channel, the parameters and what is still to be
presented are unchanged. -/
def State.Updated (s t : State) (ch : Byte) (res : BitVec 64) (f : Reg → Word) : Prop :=
  t.resp = some { status := 0, res := res } ∧ t.nch = s.nch ∧ t.dfsh = s.dfsh ∧ t.inbox = s.inbox
    ∧ t.resets = s.resets
    ∧ ∀ n r, t.reg? n r = if n = ch.toNat then some (f r) else s.reg? n r

/-- The two states have the same parameters and agree on every register but the gains KP, KI, KD. -/
def State.SameButGains (s t : State) : Prop :=
  s.nch = t.nch ∧ s.dfsh = t.dfsh
    ∧ ∀ n r, (∀ g, r ≠ .gain g .kp ∧ r ≠ .gain g .ki ∧ r ≠ .gain g .kd) → s.reg? n r = t.reg? n r

/-- A response the block can give: STATUS 0 to 3, and RES 0 unless STATUS is 0 (60_exceptions.md
R211, R212). -/
def Response.Legal (r : Response) : Prop := r.status.toNat ≤ 3 ∧ (r.status ≠ 0 → r.res = 0)

/-- The invariant of the machine: `1 <= NCH <= 256` (00_scope.md R6), and a response is one the
block can give (R211, R212). -/
def State.Inv (s : State) : Prop :=
  1 ≤ s.nch ∧ s.nch ≤ 256 ∧ ∀ r, s.resp = some r → r.Legal

/-- Instructions run one after another; none if one of them does not answer a next state. -/
def execAll : List Instr → State → Option State
  | [], s => some s
  | i :: rest, s =>
    match exec i s with
    | .next t => execAll rest t
    | _ => none

end Sys2Proof.Machine
end

