-- ==== Sys2Proof/Certificates/Slice0/Obligations.lean ====
section
/-! DEFINITION. The statements for the provers. -/

open Sys2Proof Sys2Proof.Machine

/-! ## Encoding -/

/-- Decoding what the encoder writes for a well-formed instruction gives it back, whatever its
operands are. -/
def Obligations.DecodeOfEncodeIsIdentity : Prop :=
  ∀ i : Instr, i.wf = true → decode (encode i) = .ok i

/-- A command that decodes gives a well-formed instruction, whose encoding has the same header and
the same operand word wherever the instruction reads one: no header bit is dropped. -/
def Obligations.DecodedInstructionKeepsHeaderAndReadOperands : Prop :=
  ∀ (k : Command) (i : Instr), decode k = .ok i →
    i.wf = true ∧ (encode i).hdr = k.hdr
      ∧ (i.readsA = true → (encode i).a = k.a) ∧ (i.readsB = true → (encode i).b = k.b)
      ∧ (i.readsC = true → (encode i).c = k.c)

/-- A command is an instruction exactly when a row of the opcode table matches its header, its shift
in the row's bound; and no two rows match the same header. -/
def Obligations.DecodeAcceptsExactlyTheOpcodeTable : Prop :=
  (∀ k : Command, (∃ i, decode k = .ok i) ↔ ∃ row ∈ opcodeTable, row.accepts k.hdr = true)
    ∧ ∀ hdr : Word, opcodeTable.Pairwise fun p q =>
        ¬ (hdr &&& p.mask = p.value ∧ hdr &&& q.mask = q.value)

/-- Words written out from 30_encoding.md R72 decode to the instructions they stand for. -/
def Obligations.SampleWordsDecode : Prop :=
  decode ⟨0x010000FF, 0x80000000, 1, 2⟩ = .ok (.ssat32 255 0x80000000)
    ∧ decode ⟨0x11800000, 5, 6, 7⟩ = .ok (.qsubQ31 5 6)
    ∧ decode ⟨0x12000000, 5, 6, 7⟩ = .ok (.mulQ15 5 6)
    ∧ decode ⟨0x20D00100, 5, 6, 7⟩ = .ok (.piinitQ31 .b true 1)
    ∧ decode ⟨0x23E80100, 5, 6, 7⟩ = .ok (.pidupdQ31 .b true true 1 5)
    ∧ decode ⟨0x3080001F, 5, 6, 7⟩ = .ok (.adcqQ31 31 5 6 7)
    ∧ decode ⟨0x4100FF16, 5, 6, 7⟩ = .ok (.wrreg 255 22 5)
    ∧ decode ⟨0x16000000, 0, 0, 0⟩ = .error .undefinedOp
    ∧ decode ⟨0x23010000, 0, 0, 0⟩ = .error .reservedField
    ∧ decode ⟨0x30000010, 0, 0, 0⟩ = .error .adcShift

/-- Operand words that an instruction does not read, and bits 31:16 of those that a `.Q15` form
reads, are ignored (30_encoding.md R76). -/
def Obligations.UnusedOperandBitsAreIgnored : Prop :=
  (∀ (k l : Command) (i : Instr), decode k = .ok i → l.hdr = k.hdr →
      (i.readsA = true → l.a = k.a) → (i.readsB = true → l.b = k.b) →
      (i.readsC = true → l.c = k.c) → decode l = .ok i)
    ∧ ∀ (i : Instr) (s : State), exec i.lowOperands s = exec i s

/-! ## Primitive functions -/

/-- The primitive functions (00_scope.md R10, R12, R13): `wrap_N(v)` is the one signed N-bit integer
congruent to v modulo 2^N, `asr(v, k)` the floor of v / 2^k, and the operand views the low W bits,
signed or unsigned. -/
def Obligations.PrimitivesMeetTheirDefinitions : Prop :=
  (∀ (n : Nat) (v r : Int), 1 ≤ n →
      (wrap n v = r ↔ -(2 ^ (n - 1)) ≤ r ∧ r ≤ 2 ^ (n - 1) - 1 ∧ (2 ^ n : Int) ∣ v - r))
    ∧ (∀ (v q : Int) (k : Nat), asr v k = q ↔ q * 2 ^ k ≤ v ∧ v < (q + 1) * 2 ^ k)
    ∧ (∀ x : Word, uW .q15 x = x.toNat % 65536 ∧ uW .q31 x = x.toNat)
    ∧ ∀ x : Word,
      (sW .q15 x = if x.toNat % 65536 < 32768 then (x.toNat % 65536 : Int)
          else (x.toNat % 65536 : Int) - 65536)
        ∧ sW .q31 x = if x.toNat < 2147483648 then (x.toNat : Int) else (x.toNat : Int) - 4294967296

/-! ## Saturate, add, subtract -/

/-- `ssat` (40_saturate_add.md R100): the exact clamp for `bits` in [1, N], the identity outside;
idempotent, monotone, the identity on N-bit values at `bits = N`, and -1 or 0 at `bits = 1`. -/
def Obligations.SsatIsTheExactClamp : Prop :=
  ∀ n : Nat, n = 32 ∨ n = 64 →
    (∀ (v : Int) (bits : Nat), 1 ≤ bits → bits ≤ n → ssat v bits n = clampTo bits v)
      ∧ (∀ (v : Int) (bits : Nat), bits = 0 ∨ n < bits → ssat v bits n = v)
      ∧ (∀ (v : Int) (bits : Nat), ssat (ssat v bits n) bits n = ssat v bits n)
      ∧ (∀ (v u : Int) (bits : Nat), v ≤ u → ssat v bits n ≤ ssat u bits n)
      ∧ (∀ x : BitVec n, ssat x.toInt n n = x.toInt)
      ∧ (∀ v : Int, ssat v 1 n = if v < 0 then -1 else 0)

/-- SSAT32 (R101): its encoding, and its result; `B` and `C` are ignored. -/
def Obligations.Ssat32ClampsTheWord : Prop :=
  (∀ (k : Command) (bits : Byte) (a : Word), decode k = .ok (.ssat32 bits a) ↔
      k = ⟨headerWord 0x01000000 false false false false 0 bits, a, k.b, k.c⟩)
    ∧ ∀ (bits : Byte) (a : Word) (s : State), exec (.ssat32 bits a) s = .next (s.answered
        (.ofInt 64 (if 1 ≤ bits.toNat ∧ bits.toNat ≤ 32 then clampTo bits.toNat a.toInt
          else a.toInt)))

/-- SSAT64 (R102): its encoding, and its result on the value `{B, A}`; `C` is ignored. -/
def Obligations.Ssat64ClampsTheDoubleWord : Prop :=
  (∀ (k : Command) (bits : Byte) (a b : Word), decode k = .ok (.ssat64 bits a b) ↔
      k = ⟨headerWord 0x02000000 false false false false 0 bits, a, b, k.c⟩)
    ∧ ∀ (bits : Byte) (a b : Word) (s : State), exec (.ssat64 bits a b) s = .next (s.answered
        (if 1 ≤ bits.toNat ∧ bits.toNat ≤ 64 then .ofInt 64 (clampTo bits.toNat (b ++ a).toInt)
          else b ++ a))

/-- QADD (R103): the encodings, and the exact sum clamped to W bits; `C` is ignored. -/
def Obligations.QaddClampsTheExactSum : Prop :=
  (∀ (k : Command) (a b : Word), decode k = .ok (.qaddQ15 a b) ↔ k = ⟨0x10000000, a, b, k.c⟩)
    ∧ (∀ (k : Command) (a b : Word), decode k = .ok (.qaddQ31 a b) ↔ k = ⟨0x10800000, a, b, k.c⟩)
    ∧ (∀ (a b : Word) (s : State), exec (.qaddQ15 a b) s = .next (s.answered
        (.ofInt 64 (clampTo 16 (signed 16 a + signed 16 b)))))
    ∧ ∀ (a b : Word) (s : State), exec (.qaddQ31 a b) s = .next (s.answered
        (.ofInt 64 (clampTo 32 (signed 32 a + signed 32 b))))

/-- QSUB (R104): the encodings, and the exact difference clamped to W bits; `C` is ignored. -/
def Obligations.QsubClampsTheExactDifference : Prop :=
  (∀ (k : Command) (a b : Word), decode k = .ok (.qsubQ15 a b) ↔ k = ⟨0x11000000, a, b, k.c⟩)
    ∧ (∀ (k : Command) (a b : Word), decode k = .ok (.qsubQ31 a b) ↔ k = ⟨0x11800000, a, b, k.c⟩)
    ∧ (∀ (a b : Word) (s : State), exec (.qsubQ15 a b) s = .next (s.answered
        (.ofInt 64 (clampTo 16 (signed 16 a - signed 16 b)))))
    ∧ ∀ (a b : Word) (s : State), exec (.qsubQ31 a b) s = .next (s.answered
        (.ofInt 64 (clampTo 32 (signed 32 a - signed 32 b))))

/-! ## Multiply and absolute value -/

/-- MUL (41_multiply_abs.md R120): the encodings, and the floor of the product over 2^(W-1), which
wraps for the one pair of most-negative operands; `C` is ignored. -/
def Obligations.MulTruncatesAndWrapsOnOnePair : Prop :=
  (∀ (k : Command) (a b : Word), decode k = .ok (.mulQ15 a b) ↔ k = ⟨0x12000000, a, b, k.c⟩)
    ∧ (∀ (k : Command) (a b : Word), decode k = .ok (.mulQ31 a b) ↔ k = ⟨0x12800000, a, b, k.c⟩)
    ∧ (∀ (a b : Word) (s : State), exec (.mulQ15 a b) s = .next (s.answered (.ofInt 64
        (if signed 16 a = -32768 ∧ signed 16 b = -32768 then -32768
          else signed 16 a * signed 16 b / 32768))))
    ∧ ∀ (a b : Word) (s : State), exec (.mulQ31 a b) s = .next (s.answered (.ofInt 64
        (if signed 32 a = -2147483648 ∧ signed 32 b = -2147483648 then -2147483648
          else signed 32 a * signed 32 b / 2147483648)))

/-- MULSAT (R121): the encodings, and twice the floor of the product over 2^W, but for the one pair
of most-negative operands, which gives 2^(W-1) - 2; `C` is ignored. -/
def Obligations.MulsatDoublesTheFloorAndClampsOnePair : Prop :=
  (∀ (k : Command) (a b : Word), decode k = .ok (.mulsatQ15 a b) ↔ k = ⟨0x13000000, a, b, k.c⟩)
    ∧ (∀ (k : Command) (a b : Word),
        decode k = .ok (.mulsatQ31 a b) ↔ k = ⟨0x13800000, a, b, k.c⟩)
    ∧ (∀ (a b : Word) (s : State), exec (.mulsatQ15 a b) s = .next (s.answered
        (.ofInt 64 (refMulsat 16 (signed 16 a) (signed 16 b)))))
    ∧ ∀ (a b : Word) (s : State), exec (.mulsatQ31 a b) s = .next (s.answered
        (.ofInt 64 (refMulsat 32 (signed 32 a) (signed 32 b))))

/-- ABS (R122): the encodings, and the absolute value, but the most-negative value is returned
unchanged; `B` and `C` are ignored. -/
def Obligations.AbsWrapsOnTheMostNegativeValue : Prop :=
  (∀ (k : Command) (a : Word), decode k = .ok (.absQ15 a) ↔ k = ⟨0x14000000, a, k.b, k.c⟩)
    ∧ (∀ (k : Command) (a : Word), decode k = .ok (.absQ31 a) ↔ k = ⟨0x14800000, a, k.b, k.c⟩)
    ∧ (∀ (a : Word) (s : State), exec (.absQ15 a) s = .next (s.answered
        (.ofInt 64 (if signed 16 a = -32768 then -32768 else |signed 16 a|))))
    ∧ ∀ (a : Word) (s : State), exec (.absQ31 a) s = .next (s.answered
        (.ofInt 64 (if signed 32 a = -2147483648 then -2147483648 else |signed 32 a|)))

/-- ABSSAT (R123): the encodings, and the absolute value clamped to W bits; `B` and `C` are ignored. -/
def Obligations.AbssatClampsTheAbsoluteValue : Prop :=
  (∀ (k : Command) (a : Word), decode k = .ok (.abssatQ15 a) ↔ k = ⟨0x15000000, a, k.b, k.c⟩)
    ∧ (∀ (k : Command) (a : Word), decode k = .ok (.abssatQ31 a) ↔ k = ⟨0x15800000, a, k.b, k.c⟩)
    ∧ (∀ (a : Word) (s : State), exec (.abssatQ15 a) s = .next (s.answered
        (.ofInt 64 (clampTo 16 |signed 16 a|))))
    ∧ ∀ (a : Word) (s : State), exec (.abssatQ31 a) s = .next (s.answered
        (.ofInt 64 (clampTo 32 |signed 32 a|)))

/-! ## ADC conversion -/

/-- ADCQ (44_adc_convert.md R190): the encodings, the result for a shift below W, and the rejection
ILLEGAL_COMMAND of a shift of W or more and of a must-be-zero field set. -/
def Obligations.AdcqConvertsTheRawSample : Prop :=
  (∀ (k : Command) (sh : Byte) (a b c : Word), decode k = .ok (.adcqQ15 sh a b c) ↔
      sh.toNat < 16 ∧ k = ⟨headerWord 0x30000000 false false false false 0 sh, a, b, c⟩)
    ∧ (∀ (k : Command) (sh : Byte) (a b c : Word), decode k = .ok (.adcqQ31 sh a b c) ↔
      sh.toNat < 32 ∧ k = ⟨headerWord 0x30800000 false false false false 0 sh, a, b, c⟩)
    ∧ (∀ (sh : Byte) (a b c : Word) (s : State), sh.toNat < 16 →
      exec (.adcqQ15 sh a b c) s = .next (s.answered (.ofInt 64 (refAdc 16 sh.toNat a b c))))
    ∧ (∀ (sh : Byte) (a b c : Word) (s : State), sh.toNat < 32 →
      exec (.adcqQ31 sh a b c) s = .next (s.answered (.ofInt 64 (refAdc 32 sh.toNat a b c))))
    ∧ (∀ (k : Command) (s : State), k.hdr.extractLsb' 24 8 = 0x30#8 → k.hdr &&& 0x007FFF00 ≠ 0 →
      runCommand k s = .next (s.rejected 1))
    ∧ (∀ (sh : Byte) (a b c : Word) (s : State), 16 ≤ sh.toNat →
      runCommand ⟨headerWord 0x30000000 false false false false 0 sh, a, b, c⟩ s
        = .next (s.rejected 1))
    ∧ ∀ (sh : Byte) (a b c : Word) (s : State), 32 ≤ sh.toNat →
      runCommand ⟨headerWord 0x30800000 false false false false 0 sh, a, b, c⟩ s
        = .next (s.rejected 1)

/-- When `(raw + off) * 2^sh` is a signed W-bit value, nothing wraps: the shifted sample is that
product itself (R190, "it is exact"). -/
def Obligations.AdcqIsExactWhenTheShiftedSampleFits : Prop :=
  (∀ (sh : Byte) (a b c : Word) (s : State) (t : Int), sh.toNat < 16 →
      t = ((a.setWidth 16).toNat + signed 16 b) * 2 ^ sh.toNat → -32768 ≤ t → t ≤ 32767 →
      exec (.adcqQ15 sh a b c) s = .next (s.answered (.ofInt 64 (refMulsat 16 t (signed 16 c)))))
    ∧ ∀ (sh : Byte) (a b c : Word) (s : State) (t : Int), sh.toNat < 32 →
      t = (a.toNat + signed 32 b) * 2 ^ sh.toNat → -2147483648 ≤ t → t ≤ 2147483647 →
      exec (.adcqQ31 sh a b c) s = .next (s.answered (.ofInt 64 (refMulsat 32 t (signed 32 c))))

/-- A command that names no channel answers the same in every state and changes no register: it
neither reads nor writes the register file (10_state.md R20, 70_reset_and_hazards.md R241). -/
def Obligations.StatelessCommandsReadAndWriteNoRegister : Prop :=
  ∀ i : Instr, i.channel? = none →
    ∃ r : Response, ∀ s : State, exec i s = .next { s with resp := some r }

/-! ## PI controller -/

/-- PIINIT (42_pi_controller.md R140): the encodings; on a channel that exists, A0 and A1 of the
selected set get the clamped sum and the clamped negation, RST zeroes X1 and Y1, and nothing else
changes; a must-be-zero field set is ILLEGAL_COMMAND; a channel that does not exist is BAD_CHANNEL. -/
def Obligations.PiinitDerivesTheCoefficients : Prop :=
  (∀ (k : Command) (g : GainSet) (rst : Bool) (ch : Byte), decode k = .ok (.piinitQ15 g rst ch) ↔
      k = ⟨headerWord 0x20000000 g.sel false rst false ch 0, k.a, k.b, k.c⟩)
    ∧ (∀ (k : Command) (g : GainSet) (rst : Bool) (ch : Byte),
      decode k = .ok (.piinitQ31 g rst ch) ↔
      k = ⟨headerWord 0x20800000 g.sel false rst false ch 0, k.a, k.b, k.c⟩)
    ∧ (∀ (g : GainSet) (rst : Bool) (ch : Byte) (s : State) (c : Channel),
      s.chans[ch.toNat]? = some c →
      ∃ t, exec (.piinitQ15 g rst ch) s = .next t ∧ s.Updated t ch 0 (refPiinit 16 g rst c))
    ∧ (∀ (g : GainSet) (rst : Bool) (ch : Byte) (s : State) (c : Channel),
      s.chans[ch.toNat]? = some c →
      ∃ t, exec (.piinitQ31 g rst ch) s = .next t ∧ s.Updated t ch 0 (refPiinit 32 g rst c))
    ∧ (∀ (k : Command) (s : State), k.hdr.extractLsb' 24 8 = 0x20#8 → k.hdr &&& 0x002F00FF ≠ 0 →
      runCommand k s = .next (s.rejected 1))
    ∧ ∀ (g : GainSet) (rst : Bool) (ch : Byte) (s : State), s.nch ≤ ch.toNat →
      exec (.piinitQ15 g rst ch) s = .next (s.rejected 2)
        ∧ exec (.piinitQ31 g rst ch) s = .next (s.rejected 2)

/-- PIUPD (R141, R143): the encodings; on a channel that exists, the answer and Y1 are the
double-width accumulator A0*x + A1*X1 + (Y1 << S), optionally rounded, shifted by S and clamped, X1
is the input, and nothing else changes; a must-be-zero field set is ILLEGAL_COMMAND; a channel that
does not exist is BAD_CHANNEL. -/
def Obligations.PiupdIsTheAccumulatorDatapath : Prop :=
  (∀ (k : Command) (g : GainSet) (rnd : Bool) (ch : Byte) (a : Word),
      decode k = .ok (.piupdQ15 g rnd ch a) ↔
      k = ⟨headerWord 0x21000000 g.sel rnd false false ch 0, a, k.b, k.c⟩)
    ∧ (∀ (k : Command) (g : GainSet) (rnd : Bool) (ch : Byte) (a : Word),
      decode k = .ok (.piupdQ31 g rnd ch a) ↔
      k = ⟨headerWord 0x21800000 g.sel rnd false false ch 0, a, k.b, k.c⟩)
    ∧ (∀ (g : GainSet) (rnd : Bool) (ch : Byte) (a : Word) (s : State) (c : Channel),
      s.chans[ch.toNat]? = some c →
      ∃ t, exec (.piupdQ15 g rnd ch a) s = .next t
        ∧ s.Updated t ch (.ofInt 64 (refPi 16 7 g rnd a c)) (refPiupd 16 7 g rnd a c))
    ∧ (∀ (g : GainSet) (rnd : Bool) (ch : Byte) (a : Word) (s : State) (c : Channel),
      s.chans[ch.toNat]? = some c →
      ∃ t, exec (.piupdQ31 g rnd ch a) s = .next t
        ∧ s.Updated t ch (.ofInt 64 (refPi 32 15 g rnd a c)) (refPiupd 32 15 g rnd a c))
    ∧ (∀ (k : Command) (s : State), k.hdr.extractLsb' 24 8 = 0x21#8 → k.hdr &&& 0x001F00FF ≠ 0 →
      runCommand k s = .next (s.rejected 1))
    ∧ ∀ (g : GainSet) (rnd : Bool) (ch : Byte) (a : Word) (s : State), s.nch ≤ ch.toNat →
      exec (.piupdQ15 g rnd ch a) s = .next (s.rejected 2)
        ∧ exec (.piupdQ31 g rnd ch a) s = .next (s.rejected 2)

/-- With both coefficients at most half of full scale the accumulator does not wrap: PIUPD answers
the clamped, optionally rounded, exact sum (R142). -/
def Obligations.PiupdIsExactForHalfScaleCoefficients : Prop :=
  (∀ (g : GainSet) (rnd : Bool) (ch : Byte) (a : Word) (s : State) (c : Channel) (a0 a1 : Int),
      s.chans[ch.toNat]? = some c →
      a0 = signed 16 (c.read (.gain g .a0)) → a1 = signed 16 (c.read (.gain g .a1)) →
      |a0| ≤ 2 ^ 14 → |a1| ≤ 2 ^ 14 →
      ∃ t, exec (.piupdQ15 g rnd ch a) s = .next t
        ∧ t.resp = some { status := 0, res := .ofInt 64 (clampTo 16
            ((a0 * signed 16 a + a1 * signed 16 (c.read .x1) + signed 16 (c.read .y1) * 2 ^ 7
              + (if rnd then 64 else 0)) / 2 ^ 7)) })
    ∧ ∀ (g : GainSet) (rnd : Bool) (ch : Byte) (a : Word) (s : State) (c : Channel) (a0 a1 : Int),
      s.chans[ch.toNat]? = some c →
      a0 = signed 32 (c.read (.gain g .a0)) → a1 = signed 32 (c.read (.gain g .a1)) →
      |a0| ≤ 2 ^ 30 → |a1| ≤ 2 ^ 30 →
      ∃ t, exec (.piupdQ31 g rnd ch a) s = .next t
        ∧ t.resp = some { status := 0, res := .ofInt 64 (clampTo 32
            ((a0 * signed 32 a + a1 * signed 32 (c.read .x1) + signed 32 (c.read .y1) * 2 ^ 15
              + (if rnd then 16384 else 0)) / 2 ^ 15)) }

/-- With A0 = Kp + Ki and A1 = -Kp, unsaturated and at most half of full scale, PIUPD without
rounding answers y[n-1] + floor((Kp (x[n] - x[n-1]) + Ki x[n]) / 2^S), clamped: the discrete
integrator of R144. -/
def Obligations.PiupdRealisesTheDiscreteIntegrator : Prop :=
  (∀ (g : GainSet) (ch : Byte) (a : Word) (s : State) (c : Channel) (kp ki : Int),
      s.chans[ch.toNat]? = some c →
      signed 16 (c.read (.gain g .a0)) = kp + ki → signed 16 (c.read (.gain g .a1)) = -kp →
      |kp + ki| ≤ 2 ^ 14 → |kp| ≤ 2 ^ 14 →
      ∃ t, exec (.piupdQ15 g false ch a) s = .next t
        ∧ t.resp = some { status := 0, res := .ofInt 64 (clampTo 16 (signed 16 (c.read .y1)
            + (kp * (signed 16 a - signed 16 (c.read .x1)) + ki * signed 16 a) / 2 ^ 7)) })
    ∧ ∀ (g : GainSet) (ch : Byte) (a : Word) (s : State) (c : Channel) (kp ki : Int),
      s.chans[ch.toNat]? = some c →
      signed 32 (c.read (.gain g .a0)) = kp + ki → signed 32 (c.read (.gain g .a1)) = -kp →
      |kp + ki| ≤ 2 ^ 30 → |kp| ≤ 2 ^ 30 →
      ∃ t, exec (.piupdQ31 g false ch a) s = .next t
        ∧ t.resp = some { status := 0, res := .ofInt 64 (clampTo 32 (signed 32 (c.read .y1)
            + (kp * (signed 32 a - signed 32 (c.read .x1)) + ki * signed 32 a) / 2 ^ 15)) }

/-- From X1 = Y1 = 0, any number of zero input samples, of either word size, set and rounding and
for any coefficients, answers 0 each time and leaves every register as it was (R147). -/
def Obligations.ZeroInputKeepsZeroOutput : Prop :=
  ∀ (ch : Byte) (s : State) (samples : List Instr),
    s.reg? ch.toNat .x1 = some 0 → s.reg? ch.toNat .y1 = some 0 →
    samples ≠ [] → (∀ i ∈ samples, i.zeroSampleOn ch = true) →
    ∃ t, execAll samples s = some t ∧ t.resp = some { status := 0, res := 0 }
      ∧ ∀ n r, t.reg? n r = s.reg? n r

/-! ## PID controller -/

/-- PIDINIT (43_pid_controller.md R160): the encodings; on a channel that exists, the five
coefficients of the selected set, RST zeroes X1, X2, Y1, DRAW, DFILT, and nothing else changes; a
must-be-zero field set is ILLEGAL_COMMAND; a channel that does not exist is BAD_CHANNEL. -/
def Obligations.PidinitDerivesTheCoefficients : Prop :=
  (∀ (k : Command) (g : GainSet) (rst : Bool) (ch : Byte), decode k = .ok (.pidinitQ15 g rst ch) ↔
      k = ⟨headerWord 0x22000000 g.sel false rst false ch 0, k.a, k.b, k.c⟩)
    ∧ (∀ (k : Command) (g : GainSet) (rst : Bool) (ch : Byte),
      decode k = .ok (.pidinitQ31 g rst ch) ↔
      k = ⟨headerWord 0x22800000 g.sel false rst false ch 0, k.a, k.b, k.c⟩)
    ∧ (∀ (g : GainSet) (rst : Bool) (ch : Byte) (s : State) (c : Channel),
      s.chans[ch.toNat]? = some c →
      ∃ t, exec (.pidinitQ15 g rst ch) s = .next t ∧ s.Updated t ch 0 (refPidinit 16 g rst c))
    ∧ (∀ (g : GainSet) (rst : Bool) (ch : Byte) (s : State) (c : Channel),
      s.chans[ch.toNat]? = some c →
      ∃ t, exec (.pidinitQ31 g rst ch) s = .next t ∧ s.Updated t ch 0 (refPidinit 32 g rst c))
    ∧ (∀ (k : Command) (s : State), k.hdr.extractLsb' 24 8 = 0x22#8 → k.hdr &&& 0x002F00FF ≠ 0 →
      runCommand k s = .next (s.rejected 1))
    ∧ ∀ (g : GainSet) (rst : Bool) (ch : Byte) (s : State), s.nch ≤ ch.toNat →
      exec (.pidinitQ15 g rst ch) s = .next (s.rejected 2)
        ∧ exec (.pidinitQ31 g rst ch) s = .next (s.rejected 2)

/-- PIDUPD (43_pid_controller.md R161, R165, R167): the encodings; on a channel that exists, held if
`M = 1` and MASK is positive: the answer is Y1, MASK goes down by one and nothing else changes; else
computed: the answer and Y1 are the combined output, X2 the old X1, X1 the input, DRAW and DFILT this
sample's, and nothing else changes, MASK among it; a must-be-zero field set is ILLEGAL_COMMAND; a
channel that does not exist is BAD_CHANNEL. -/
def Obligations.PidupdIsTheTwoBranchDatapath : Prop :=
  (∀ (k : Command) (g : GainSet) (rnd m : Bool) (ch : Byte) (a : Word),
      decode k = .ok (.pidupdQ15 g rnd m ch a) ↔
      k = ⟨headerWord 0x23000000 g.sel rnd false m ch 0, a, k.b, k.c⟩)
    ∧ (∀ (k : Command) (g : GainSet) (rnd m : Bool) (ch : Byte) (a : Word),
      decode k = .ok (.pidupdQ31 g rnd m ch a) ↔
      k = ⟨headerWord 0x23800000 g.sel rnd false m ch 0, a, k.b, k.c⟩)
    ∧ (∀ (g : GainSet) (rnd m : Bool) (ch : Byte) (a : Word) (s : State) (c : Channel),
      s.chans[ch.toNat]? = some c → refHolds m c →
      (∃ t, exec (.pidupdQ15 g rnd m ch a) s = .next t
        ∧ s.Updated t ch (.ofInt 64 (signed 16 (c.read .y1))) (refPidHeld c))
      ∧ ∃ t, exec (.pidupdQ31 g rnd m ch a) s = .next t
        ∧ s.Updated t ch (.ofInt 64 (signed 32 (c.read .y1))) (refPidHeld c))
    ∧ (∀ (g : GainSet) (rnd m : Bool) (ch : Byte) (a : Word) (s : State) (c : Channel),
      s.chans[ch.toNat]? = some c → ¬ refHolds m c →
      (∃ t, exec (.pidupdQ15 g rnd m ch a) s = .next t
        ∧ s.Updated t ch (.ofInt 64 (refPid 16 7 s.dfsh.val g rnd a c))
            (refPidupd 16 7 s.dfsh.val g rnd a c))
      ∧ ∃ t, exec (.pidupdQ31 g rnd m ch a) s = .next t
        ∧ s.Updated t ch (.ofInt 64 (refPid 32 15 s.dfsh.val g rnd a c))
            (refPidupd 32 15 s.dfsh.val g rnd a c))
    ∧ (∀ (k : Command) (s : State), k.hdr.extractLsb' 24 8 = 0x23#8 → k.hdr &&& 0x001700FF ≠ 0 →
      runCommand k s = .next (s.rejected 1))
    ∧ ∀ (g : GainSet) (rnd m : Bool) (ch : Byte) (a : Word) (s : State), s.nch ≤ ch.toNat →
      exec (.pidupdQ15 g rnd m ch a) s = .next (s.rejected 2)
        ∧ exec (.pidupdQ31 g rnd m ch a) s = .next (s.rejected 2)

/-- A hold of n samples (R166): from MASK = v, any n <= v commands PIDUPD with `M = 1` on the
channel, whatever their inputs, sets, rounding and word sizes, leave MASK = v - n and every other
register as it was, and the last of them answers Y1; with MASK zero or negative, as after n = v, one
with `M = 1` does all that one with `M = 0` does; and one with `M = 0` leaves MASK as it is. -/
def Obligations.MaskCountsDownOverHeldSamples : Prop :=
  (∀ (ch : Byte) (s : State) (samples : List Instr) (v y : Word),
    s.reg? ch.toNat .mask = some v → s.reg? ch.toNat .y1 = some y →
    (samples.length : Int) ≤ v.toInt → (∀ i ∈ samples, i.maskedSampleOn ch = true) →
    ∃ t, execAll samples s = some t
      ∧ (∀ n r, t.reg? n r = if n = ch.toNat ∧ r = .mask
            then some (v - BitVec.ofNat 32 samples.length) else s.reg? n r)
      ∧ ∀ i, samples.getLast? = some i →
          t.resp = some { status := 0, res := .ofInt 64 (signed i.sampleBits y) })
    ∧ (∀ (ch : Byte) (s : State) (v : Word), s.reg? ch.toNat .mask = some v → v.toInt ≤ 0 →
      ∀ (g : GainSet) (rnd : Bool) (a : Word),
        exec (.pidupdQ15 g rnd true ch a) s = exec (.pidupdQ15 g rnd false ch a) s
          ∧ exec (.pidupdQ31 g rnd true ch a) s = exec (.pidupdQ31 g rnd false ch a) s)
    ∧ ∀ (ch : Byte) (s : State) (v : Word), s.reg? ch.toNat .mask = some v →
      ∀ (g : GainSet) (rnd : Bool) (a : Word),
        (∃ t, exec (.pidupdQ15 g rnd false ch a) s = .next t ∧ t.reg? ch.toNat .mask = some v)
          ∧ ∃ t, exec (.pidupdQ31 g rnd false ch a) s = .next t ∧ t.reg? ch.toNat .mask = some v

/-- The derivative filter (R164): for every DFSH the new DFILT lies between the old DFILT and this
sample's DRAW, so it fits W bits unclamped; with DFSH = 0 it is DRAW. -/
def Obligations.FilteredDerivativeLiesBetween : Prop :=
  (∀ (g : GainSet) (rnd : Bool) (ch : Byte) (a : Word) (s : State) (c : Channel),
      s.chans[ch.toNat]? = some c →
      ∃ t draw df, exec (.pidupdQ15 g rnd false ch a) s = .next t
        ∧ t.reg? ch.toNat .draw = some draw ∧ t.reg? ch.toNat .dfilt = some df
        ∧ min (signed 16 (c.read .dfilt)) draw.toInt ≤ df.toInt
        ∧ df.toInt ≤ max (signed 16 (c.read .dfilt)) draw.toInt
        ∧ (s.dfsh = 0 → df = draw))
    ∧ ∀ (g : GainSet) (rnd : Bool) (ch : Byte) (a : Word) (s : State) (c : Channel),
      s.chans[ch.toNat]? = some c →
      ∃ t draw df, exec (.pidupdQ31 g rnd false ch a) s = .next t
        ∧ t.reg? ch.toNat .draw = some draw ∧ t.reg? ch.toNat .dfilt = some df
        ∧ min (signed 32 (c.read .dfilt)) draw.toInt ≤ df.toInt
        ∧ df.toInt ≤ max (signed 32 (c.read .dfilt)) draw.toInt
        ∧ (s.dfsh = 0 → df = draw)

/-- With the derivative coefficients of the set and DFILT zero, PIDUPD with `M = 0` answers what
PIUPD answers and leaves the same registers but for X2 (the old X1), DRAW and DFILT (zero), R169. -/
def Obligations.PidupdWithoutDerivativeIsPiupd : Prop :=
  (∀ (g : GainSet) (rnd : Bool) (ch : Byte) (a : Word) (s : State) (c : Channel),
      s.chans[ch.toNat]? = some c →
      signed 16 (c.read (.gain g .a0d)) = 0 → signed 16 (c.read (.gain g .a1d)) = 0 →
      signed 16 (c.read (.gain g .a2d)) = 0 → signed 16 (c.read .dfilt) = 0 →
      ∃ t u, exec (.piupdQ15 g rnd ch a) s = .next t
        ∧ exec (.pidupdQ15 g rnd false ch a) s = .next u ∧ u.resp = t.resp
        ∧ u.reg? ch.toNat .x2 = some ((c.read .x1).setWidth 16 |>.signExtend 32)
        ∧ u.reg? ch.toNat .draw = some 0 ∧ u.reg? ch.toNat .dfilt = some 0
        ∧ ∀ n r, n ≠ ch.toNat ∨ (r ≠ .x2 ∧ r ≠ .draw ∧ r ≠ .dfilt) → u.reg? n r = t.reg? n r)
    ∧ ∀ (g : GainSet) (rnd : Bool) (ch : Byte) (a : Word) (s : State) (c : Channel),
      s.chans[ch.toNat]? = some c →
      c.read (.gain g .a0d) = 0 → c.read (.gain g .a1d) = 0 →
      c.read (.gain g .a2d) = 0 → c.read .dfilt = 0 →
      ∃ t u, exec (.piupdQ31 g rnd ch a) s = .next t
        ∧ exec (.pidupdQ31 g rnd false ch a) s = .next u ∧ u.resp = t.resp
        ∧ u.reg? ch.toNat .x2 = some (c.read .x1)
        ∧ u.reg? ch.toNat .draw = some 0 ∧ u.reg? ch.toNat .dfilt = some 0
        ∧ ∀ n r, n ≠ ch.toNat ∨ (r ≠ .x2 ∧ r ≠ .draw ∧ r ≠ .dfilt) → u.reg? n r = t.reg? n r

/-- After a `.Q15` controller command every register but MASK is unchanged or holds a pattern whose
bits 31:16 equal bit 15 (10_state.md R29). -/
def Obligations.Q15CommandsWriteSignExtendedPatterns : Prop :=
  ∀ (g : GainSet) (rst rnd m : Bool) (ch : Byte) (a : Word) (s t : State),
    (exec (.piinitQ15 g rst ch) s = .next t ∨ exec (.piupdQ15 g rnd ch a) s = .next t
      ∨ exec (.pidinitQ15 g rst ch) s = .next t ∨ exec (.pidupdQ15 g rnd m ch a) s = .next t) →
    ∀ n r, r ≠ .mask → t.reg? n r = s.reg? n r
      ∨ ∃ v : Word, t.reg? n r = some v ∧ v = (v.setWidth 16).signExtend 32

/-! ## Register access -/

/-- The register map (10_state.md R24): indexes 0 to 21 in order, nothing at 22 to 255. -/
def Obligations.RegisterIndexesAreTheMap : Prop :=
  (List.range 22).map (fun n => Reg.ofIndex (BitVec.ofNat 8 n))
      = [some (.gain .a .kp), some (.gain .a .ki), some (.gain .a .kd), some (.gain .a .a0),
          some (.gain .a .a1), some (.gain .a .a0d), some (.gain .a .a1d), some (.gain .a .a2d),
          some (.gain .b .kp), some (.gain .b .ki), some (.gain .b .kd), some (.gain .b .a0),
          some (.gain .b .a1), some (.gain .b .a0d), some (.gain .b .a1d), some (.gain .b .a2d),
          some .x1, some .x2, some .y1, some .draw, some .dfilt, some .mask]
    ∧ ∀ idx : Byte, 22 ≤ idx.toNat → Reg.ofIndex idx = none

/-- RDREG (45_register_access.md R201): the encoding; on a channel that exists and an index at most
21, the answer is the register's pattern zero-extended and no register changes; otherwise
ILLEGAL_COMMAND, BAD_CHANNEL or BAD_REGISTER, the first that applies. -/
def Obligations.RdregAnswersTheRawPattern : Prop :=
  (∀ (k : Command) (ch idx : Byte), decode k = .ok (.rdreg ch idx) ↔
      k = ⟨headerWord 0x40000000 false false false false ch idx, k.a, k.b, k.c⟩)
    ∧ (∀ (ch idx : Byte) (s : State), ch.toNat < s.nch → idx.toNat ≤ 21 →
      ∃ (r : Reg) (v : Word), r.index = idx.toNat ∧ s.reg? ch.toNat r = some v
        ∧ exec (.rdreg ch idx) s = .next (s.answered (v.setWidth 64)))
    ∧ (∀ (k : Command) (s : State), k.hdr.extractLsb' 24 8 = 0x40#8 → k.hdr &&& 0x00FF0000 ≠ 0 →
      runCommand k s = .next (s.rejected 1))
    ∧ (∀ (ch idx : Byte) (s : State), s.nch ≤ ch.toNat →
      exec (.rdreg ch idx) s = .next (s.rejected 2))
    ∧ ∀ (ch idx : Byte) (s : State), ch.toNat < s.nch → 21 < idx.toNat →
      exec (.rdreg ch idx) s = .next (s.rejected 3)

/-- WRREG (R202; 20_memory.md R53): the encoding; on a channel that exists and an index at most 21,
that one register holds all 32 bits of A afterwards, nothing else changes and the answer is 0;
otherwise ILLEGAL_COMMAND, BAD_CHANNEL or BAD_REGISTER, the first that applies. -/
def Obligations.WrregReplacesOneRegister : Prop :=
  (∀ (k : Command) (ch idx : Byte) (a : Word), decode k = .ok (.wrreg ch idx a) ↔
      k = ⟨headerWord 0x41000000 false false false false ch idx, a, k.b, k.c⟩)
    ∧ (∀ (ch idx : Byte) (a : Word) (s : State) (c : Channel),
      s.chans[ch.toNat]? = some c → idx.toNat ≤ 21 →
      ∃ t, exec (.wrreg ch idx a) s = .next t
        ∧ s.Updated t ch 0 (fun r => if r.index = idx.toNat then a else c.read r))
    ∧ (∀ (k : Command) (s : State), k.hdr.extractLsb' 24 8 = 0x41#8 → k.hdr &&& 0x00FF0000 ≠ 0 →
      runCommand k s = .next (s.rejected 1))
    ∧ (∀ (ch idx : Byte) (a : Word) (s : State), s.nch ≤ ch.toNat →
      exec (.wrreg ch idx a) s = .next (s.rejected 2))
    ∧ ∀ (ch idx : Byte) (a : Word) (s : State), ch.toNat < s.nch → 21 < idx.toNat →
      exec (.wrreg ch idx a) s = .next (s.rejected 3)

/-- An RDREG after a WRREG answers the written word for the same register of the same channel, and
what it answered before for any other (20_memory.md R52, R53, R58). -/
def Obligations.RdregSeesTheLastWrreg : Prop :=
  ∀ (ch idx ch' idx' : Byte) (a : Word) (s : State),
    ch.toNat < s.nch → idx.toNat ≤ 21 → ch'.toNat < s.nch → idx'.toNat ≤ 21 →
    ∃ t u v, exec (.wrreg ch idx a) s = .next t ∧ exec (.rdreg ch' idx') t = .next u
      ∧ exec (.rdreg ch' idx') s = .next v
      ∧ u.resp = if ch' = ch ∧ idx' = idx then some { status := 0, res := a.setWidth 64 }
          else v.resp

/-! ## Rejection -/

/-- The STATUS of every command, in every state, is the one the opcode table gives in the order of
checks of 30_encoding.md R78 (60_exceptions.md R213); the block always answers. -/
def Obligations.StatusFollowsTheOrderOfChecks : Prop :=
  ∀ (k : Command) (s : State),
    ∃ t r, runCommand k s = .next t ∧ t.resp = some r ∧ r.status = refStatus s.nch k.hdr

/-- A command answered with a STATUS other than 0 changes no register and nothing else: all that is
left of it is the response, with RES 0 (60_exceptions.md R212). -/
def Obligations.RejectedCommandChangesNothing : Prop :=
  ∀ (k : Command) (s t : State) (r : Response),
    runCommand k s = .next t → t.resp = some r → r.status ≠ 0 → t = s.rejected r.status

/-! ## The step -/

/-- A step at a port where a command is next, which decodes to a well-formed instruction, is that
instruction on the state with the command taken from the port. The port as a list of what will be
presented is the model's choice (log 5). -/
def Obligations.StepRunsTheDecodedInstruction : Prop :=
  ∀ (k : Command) (i : Instr) (rest : List Input) (s : State),
    s.inbox = .command k :: rest → decode k = .ok i → i.wf = true →
    step s = exec i { s with inbox := rest }

/-- A step at a port where an illegal command is next takes it and rejects it with ILLEGAL_COMMAND
(30_encoding.md R75). The port as a list is the model's choice (log 5). -/
def Obligations.StepRejectsAnIllegalCommand : Prop :=
  ∀ (k : Command) (e : Illegal) (rest : List Input) (s : State),
    s.inbox = .command k :: rest → decode k = .error e →
    step s = .next (State.rejected { s with inbox := rest } 1)

/-- The model's step is total: from every state it answers a next state, never a fault or a refusal.
For a command that is next at the port the spec says so ("total on every command (any four 32-bit
words)", 30_encoding.md R70; 60_exceptions.md R210; 70_reset_and_hazards.md R260). For the two other
things a step can meet it is the model's reading: a port with nothing presented has a step at all by
log 7 (DEDUCED, from 60_exceptions.md R225), and the Reset event of 70_reset_and_hazards.md R240 is
a step of its own by logs 4 and 5. That no step of any kind stops is log 15 (DEDUCED). -/
def Obligations.EveryStepAnswersANextState : Prop :=
  ∀ s : State, ∃ t, step s = .next t

/-- A step takes exactly what is next at the port, and leaves the parameters NCH and DFSH as they
are. How the port and the parameters are shown, and that a step on an empty port leaves no response,
is the model's choice (logs 1, 2, 4, 5, 6, 7). -/
def Obligations.EveryStepTakesOneInputAndKeepsTheParameters : Prop :=
  ∀ s t : State, step s = .next t →
    t.inbox = s.inbox.tail ∧ t.nch = s.nch ∧ t.dfsh = s.dfsh
      ∧ t.resets = s.resets + (if s.inbox.head? = some .reset then 1 else 0)
      ∧ (t.resp.isSome = true ↔ ∃ k, s.inbox.head? = some (.command k))

/-- With nothing presented the step changes no register and answers nothing: the model's choice for
a port without a command (log 7), from "Between commands it does nothing and holds its registers"
(60_exceptions.md R225). -/
def Obligations.IdleStepHoldsTheRegisters : Prop :=
  ∀ s : State, s.inbox = [] → step s = .next { s with resp := none }

/-- A Reset event leaves the block ready: the parameters are kept, the event is taken, nothing is
answered, every channel keeps all its registers with some pattern in each, and the commands that
name no channel answer as before it. How the event is presented and counted is the model's choice
(log 4, log 5). -/
def Obligations.ResetEventLeavesTheBlockReady : Prop :=
  ∀ (rest : List Input) (s : State), s.inbox = .reset :: rest →
    ∃ t, step s = .next t ∧ t.nch = s.nch ∧ t.dfsh = s.dfsh ∧ t.inbox = rest ∧ t.resp = none
      ∧ (∀ n r, (t.reg? n r).isSome = (s.reg? n r).isSome)
      ∧ ∀ i : Instr, i.channel? = none → ∀ u v, exec i s = .next u → exec i t = .next v →
          v.resp = u.resp

/-- Presenting the bits of a table word makes the next step run what the decoder reads from them:
the model's own operations on its port (log 5, log 11). -/
def Obligations.PlacedWordIsTheNextInstruction : Prop :=
  ∀ (nbits w : Nat) (i : Instr) (s : State), decodeTableWord nbits w = some i →
    step (s.withFetchWord nbits w) = exec i s

/-! ## Invariants and isolation -/

/-- Every step keeps the invariant, from every state that meets it. That a state holds NCH and the
last response is the model's choice (logs 1, 6). -/
def Obligations.StepKeepsTheInvariant : Prop :=
  ∀ s t : State, s.Inv → step s = .next t → t.Inv

/-- The reset state meets the invariant. Its NCH is the model's choice (log 1). -/
def Obligations.ResetStateMeetsTheInvariant : Prop := State.reset.Inv

/-- The frame of every instruction: when it answers a next state, every register of every channel it
does not name, the parameters, what is still to be presented and the count of resets are unchanged
(20_memory.md R58). -/
def Obligations.OtherChannelsAreUnchanged : Prop :=
  ∀ (i : Instr) (s t : State), exec i s = .next t →
    t.nch = s.nch ∧ t.dfsh = s.dfsh ∧ t.inbox = s.inbox ∧ t.resets = s.resets
      ∧ ∀ n r, (∀ ch, i.channel? = some ch → n ≠ ch.toNat) → t.reg? n r = s.reg? n r

/-- What an instruction answers, and what it leaves in the channel it names, depend on that channel
and DFSH alone: two states that agree on them cannot be told apart (R58, 10_state.md R32). -/
def Obligations.CommandsReadOnlyTheirOwnChannel : Prop :=
  ∀ (i : Instr) (ch : Byte) (s₁ s₂ : State), i.channel? = some ch →
    s₁.chans[ch.toNat]? = s₂.chans[ch.toNat]? → s₁.dfsh = s₂.dfsh →
    ∃ t₁ t₂, exec i s₁ = .next t₁ ∧ exec i s₂ = .next t₂ ∧ t₁.resp = t₂.resp
      ∧ t₁.chans[ch.toNat]? = t₂.chans[ch.toNat]?

/-- Only WRREG writes a gain, and a gain has no effect on any output or register until an INIT reads
it: two states that differ in gains alone answer every command but PIINIT, PIDINIT and RDREG alike,
and still differ in gains alone (70_reset_and_hazards.md R251, 10_state.md R25). -/
def Obligations.GainsActOnlyThroughInit : Prop :=
  (∀ (i : Instr) (s t : State) (n : Nat) (g : GainSet), (∀ ch idx a, i ≠ .wrreg ch idx a) →
      exec i s = .next t →
      t.reg? n (.gain g .kp) = s.reg? n (.gain g .kp)
        ∧ t.reg? n (.gain g .ki) = s.reg? n (.gain g .ki)
        ∧ t.reg? n (.gain g .kd) = s.reg? n (.gain g .kd))
    ∧ ∀ (i : Instr) (s₁ s₂ : State), s₁.SameButGains s₂ → i.readsGains = false →
      ∃ t₁ t₂, exec i s₁ = .next t₁ ∧ exec i s₂ = .next t₂ ∧ t₁.resp = t₂.resp
        ∧ t₁.SameButGains t₂
end

