-- ==== Sys2Proof/Laws/Arith.lean ====
section
/-! SUPPORT. The primitive and the numeric operations against library notions: `wrap` and the
operand views as bit-vector readings, `ssat` as a clamp, and the ranges of results. -/

namespace Sys2Proof.Machine

/-! ## Operand views and primitives -/

@[simp] theorem sW_q15 (x : Word) : sW .q15 x = signed 16 x := rfl
@[simp] theorem sW_q31 (x : Word) : sW .q31 x = signed 32 x := by simp [sW, signed]
@[simp] theorem rd_q15 (c : Channel) (r : Reg) : c.rd .q15 r = signed 16 (c.read r) := rfl
@[simp] theorem rd_q31 (c : Channel) (r : Reg) : c.rd .q31 r = signed 32 (c.read r) := sW_q31 _
@[simp] theorem bitsOf_q15 : bitsOf .q15 = 16 := rfl
@[simp] theorem bitsOf_q31 : bitsOf .q31 = 32 := rfl
@[simp] theorem shiftOf_q15 : shiftOf .q15 = 7 := rfl
@[simp] theorem shiftOf_q31 : shiftOf .q31 = 15 := rfl

/-- A signed reading is in range. -/
theorem signed_range (n : Nat) (x : Word) :
    -(2 ^ (n - 1)) ≤ signed n x ∧ signed n x < 2 ^ (n - 1) :=
  ⟨BitVec.le_toInt _, BitVec.toInt_lt⟩

/-- A 16-bit reading is in range. -/
theorem signed16_range (x : Word) : -32768 ≤ signed 16 x ∧ signed 16 x ≤ 32767 := by
  have h := signed_range 16 x
  norm_num at h
  exact ⟨h.1, Int.le_of_lt_add_one h.2⟩

/-- A 32-bit reading is in range. -/
theorem signed32_range (x : Word) : -2147483648 ≤ signed 32 x ∧ signed 32 x ≤ 2147483647 := by
  have h := signed_range 32 x
  norm_num at h
  exact ⟨h.1, Int.le_of_lt_add_one h.2⟩

/-- `wrap` is the balanced remainder. -/
theorem wrap_eq_bmod (n : Nat) (v : Int) : wrap n v = v.bmod (2 ^ n) := BitVec.toInt_ofInt v

/-- A value in range is not changed by `wrap`. -/
theorem wrap_of_range {n : Nat} {v : Int} (hn : 1 ≤ n) (h1 : -(2 ^ (n - 1)) ≤ v)
    (h2 : v < 2 ^ (n - 1)) : wrap n v = v := by
  obtain ⟨m, rfl⟩ : ∃ m, n = m + 1 := ⟨n - 1, by omega⟩
  rw [wrap_eq_bmod]
  apply Int.bmod_eq_of_le
  · simp only [Nat.add_sub_cancel] at h1
    push_cast
    rw [pow_succ]
    omega
  · simp only [Nat.add_sub_cancel] at h2
    push_cast
    rw [pow_succ]
    omega

/-- The signed reading of a pattern written sign-extended: bits 31:16 equal bit 15 (10_state.md R29). -/
theorem bits32_signed16 (x : Word) : bits32 (signed 16 x) = (x.setWidth 16).signExtend 32 := by
  simp [bits32, signed, BitVec.signExtend]

/-- A whole word read signed and written back is the word. -/
theorem bits32_signed32 (x : Word) : bits32 (signed 32 x) = x := by
  simp [bits32, signed]

/-- A 32-bit signed value survives being written to a register. -/
theorem toInt_bits32 {v : Int} (h1 : -2147483648 ≤ v) (h2 : v ≤ 2147483647) :
    (bits32 v).toInt = v := by
  have := wrap_of_range (n := 32) (v := v) (by omega) (by norm_num; omega) (by norm_num; omega)
  exact this

/-! ## The clamp -/

/-- `ssat` with `bits` in [1, N] is the clamp of the statements (40_saturate_add.md R100). -/
theorem ssat_eq_clampTo {bits n : Nat} (h1 : 1 ≤ bits) (h2 : bits ≤ n) (v : Int) :
    ssat v bits n = clampTo bits v := by
  have hp : (1 : Int) ≤ 2 ^ (bits - 1) := one_le_pow₀ (by norm_num)
  simp only [ssat, clampTo, h1, h2, and_self, if_true]
  split
  · rw [max_eq_left]; exact le_trans (min_le_right _ _) (by omega)
  · split
    · rw [min_eq_left (by omega), max_eq_right (by omega)]
    · rw [min_eq_right (by omega), max_eq_right (by omega)]

/-- `ssat` with `bits` outside [1, N] is the identity (R100). -/
theorem ssat_of_outside {bits n : Nat} (h : bits = 0 ∨ n < bits) (v : Int) : ssat v bits n = v := by
  simp only [ssat]
  rw [if_neg (by omega)]

/-- The clamp lands in range. -/
theorem clampTo_range (n : Nat) (v : Int) :
    -(2 ^ (n - 1)) ≤ clampTo n v ∧ clampTo n v ≤ 2 ^ (n - 1) - 1 := by
  have hp : (1 : Int) ≤ 2 ^ (n - 1) := one_le_pow₀ (by norm_num)
  exact ⟨le_max_left _ _, max_le (by omega) (min_le_left _ _)⟩

/-- The clamp leaves a value in range alone. -/
theorem clampTo_of_range {n : Nat} {v : Int} (h1 : -(2 ^ (n - 1)) ≤ v) (h2 : v ≤ 2 ^ (n - 1) - 1) :
    clampTo n v = v := by
  simp only [clampTo]
  rw [min_eq_right h2, max_eq_right h1]

theorem satAdd_q15 (x y : Int) : satAdd .q15 x y = clampTo 16 (x + y) :=
  ssat_eq_clampTo (by decide) (by decide) _
theorem satAdd_q31 (x y : Int) : satAdd .q31 x y = clampTo 32 (x + y) :=
  ssat_eq_clampTo (by decide) (by decide) _
theorem satSub_q15 (x y : Int) : satSub .q15 x y = clampTo 16 (x - y) :=
  ssat_eq_clampTo (by decide) (by decide) _
theorem satSub_q31 (x y : Int) : satSub .q31 x y = clampTo 32 (x - y) :=
  ssat_eq_clampTo (by decide) (by decide) _

/-! ## Bit-vector accumulators -/

/-- The signed value of a double-width factor. -/
theorem toInt_wide (n : Nat) (x : Word) : (wide n x).toInt = signed n x := by
  simp only [wide, signed]
  exact BitVec.toInt_signExtend_of_le (by omega)

/-- A double-width factor is the pattern of its signed value. -/
theorem wide_eq_ofInt (n : Nat) (x : Word) : wide n x = BitVec.ofInt (2 * n) (signed n x) := by
  rw [← toInt_wide, BitVec.ofInt_toInt]

/-- A left shift of a pattern is the pattern of the value times the power of two. -/
theorem shiftLeft_ofInt (m k : Nat) (v : Int) :
    (BitVec.ofInt m v) <<< k = BitVec.ofInt m (v * 2 ^ k) := by
  rw [BitVec.shiftLeft_eq_mul_twoPow, BitVec.ofInt_mul]
  congr 1
  apply BitVec.eq_of_toNat_eq
  simp only [BitVec.toNat_twoPow, BitVec.toNat_ofInt]
  have : ((2 : Int) ^ k % ((2 ^ m : Nat) : Int)) = ((2 ^ k % 2 ^ m : Nat) : Int) := by push_cast; rfl
  rw [this, Int.toNat_natCast]

/-- The arithmetic right shift of a pattern reads as the floor of its value. -/
theorem toInt_sshiftRight_eq_asr {m : Nat} (x : BitVec m) (k : Nat) :
    (x.sshiftRight k).toInt = asr x.toInt k := by
  rw [BitVec.toInt_sshiftRight, Int.shiftRight_eq_div_pow, asr]
  norm_cast

end Sys2Proof.Machine
end

