-- ==== Sys2Proof/Laws/State.lean ====
section
/-! SUPPORT. One lemma per field for each update of the state, so that no proof unfolds one. -/

namespace Sys2Proof.Machine

@[simp] theorem respond_chans (v : Int) (s : State) : (respond v s).chans = s.chans := rfl
@[simp] theorem respond_dfsh (v : Int) (s : State) : (respond v s).dfsh = s.dfsh := rfl
@[simp] theorem respond_inbox (v : Int) (s : State) : (respond v s).inbox = s.inbox := rfl
@[simp] theorem respond_resp (v : Int) (s : State) : (respond v s).resp = some { status := statusCode .ok, res := bits64 v } := rfl
@[simp] theorem respond_resets (v : Int) (s : State) : (respond v s).resets = s.resets := rfl

@[simp] theorem respondRaw_chans (p : Word) (s : State) : (respondRaw p s).chans = s.chans := rfl
@[simp] theorem respondRaw_dfsh (p : Word) (s : State) : (respondRaw p s).dfsh = s.dfsh := rfl
@[simp] theorem respondRaw_inbox (p : Word) (s : State) : (respondRaw p s).inbox = s.inbox := rfl
@[simp] theorem respondRaw_resp (p : Word) (s : State) : (respondRaw p s).resp = some { status := statusCode .ok, res := p.setWidth 64 } := rfl
@[simp] theorem respondRaw_resets (p : Word) (s : State) : (respondRaw p s).resets = s.resets := rfl

@[simp] theorem reject_chans (k : Status) (s : State) : (reject k s).chans = s.chans := rfl
@[simp] theorem reject_dfsh (k : Status) (s : State) : (reject k s).dfsh = s.dfsh := rfl
@[simp] theorem reject_inbox (k : Status) (s : State) : (reject k s).inbox = s.inbox := rfl
@[simp] theorem reject_resp (k : Status) (s : State) : (reject k s).resp = some { status := statusCode k, res := 0 } := rfl
@[simp] theorem reject_resets (k : Status) (s : State) : (reject k s).resets = s.resets := rfl

@[simp] theorem setChannel_chans (ch : Byte) (c : Channel) (s : State) : (setChannel ch c s).chans = s.chans.set ch.toNat c := rfl
@[simp] theorem setChannel_dfsh (ch : Byte) (c : Channel) (s : State) : (setChannel ch c s).dfsh = s.dfsh := rfl
@[simp] theorem setChannel_inbox (ch : Byte) (c : Channel) (s : State) : (setChannel ch c s).inbox = s.inbox := rfl
@[simp] theorem setChannel_resp (ch : Byte) (c : Channel) (s : State) : (setChannel ch c s).resp = s.resp := rfl
@[simp] theorem setChannel_resets (ch : Byte) (c : Channel) (s : State) : (setChannel ch c s).resets = s.resets := rfl

@[simp] theorem idle_chans (s : State) : (idle s).chans = s.chans := rfl
@[simp] theorem idle_dfsh (s : State) : (idle s).dfsh = s.dfsh := rfl
@[simp] theorem idle_inbox (s : State) : (idle s).inbox = s.inbox := rfl
@[simp] theorem idle_resp (s : State) : (idle s).resp = none := rfl
@[simp] theorem idle_resets (s : State) : (idle s).resets = s.resets := rfl

@[simp] theorem present_chans (k : Command) (s : State) : (present k s).chans = s.chans := rfl
@[simp] theorem present_dfsh (k : Command) (s : State) : (present k s).dfsh = s.dfsh := rfl
@[simp] theorem present_inbox (k : Command) (s : State) : (present k s).inbox = .command k :: s.inbox := rfl
@[simp] theorem present_resp (k : Command) (s : State) : (present k s).resp = s.resp := rfl
@[simp] theorem present_resets (k : Command) (s : State) : (present k s).resets = s.resets := rfl

@[simp] theorem answered_chans (s : State) (r : BitVec 64) : (s.answered r).chans = s.chans := rfl
@[simp] theorem answered_dfsh (s : State) (r : BitVec 64) : (s.answered r).dfsh = s.dfsh := rfl
@[simp] theorem answered_inbox (s : State) (r : BitVec 64) : (s.answered r).inbox = s.inbox := rfl
@[simp] theorem answered_resp (s : State) (r : BitVec 64) : (s.answered r).resp = some { status := 0, res := r } := rfl
@[simp] theorem answered_resets (s : State) (r : BitVec 64) : (s.answered r).resets = s.resets := rfl

@[simp] theorem rejected_chans (s : State) (k : BitVec 4) : (s.rejected k).chans = s.chans := rfl
@[simp] theorem rejected_dfsh (s : State) (k : BitVec 4) : (s.rejected k).dfsh = s.dfsh := rfl
@[simp] theorem rejected_inbox (s : State) (k : BitVec 4) : (s.rejected k).inbox = s.inbox := rfl
@[simp] theorem rejected_resp (s : State) (k : BitVec 4) : (s.rejected k).resp = some { status := k, res := 0 } := rfl
@[simp] theorem rejected_resets (s : State) (k : BitVec 4) : (s.rejected k).resets = s.resets := rfl

@[simp] theorem applyReset_dfsh (s : State) : (applyReset s).dfsh = s.dfsh := rfl
@[simp] theorem applyReset_inbox (s : State) : (applyReset s).inbox = s.inbox := rfl
@[simp] theorem applyReset_resp (s : State) : (applyReset s).resp = none := rfl
@[simp] theorem applyReset_resets (s : State) : (applyReset s).resets = s.resets + 1 := rfl

/-- A Reset event keeps the number of channels. -/
@[simp] theorem applyReset_nch (s : State) : (applyReset s).chans.length = s.chans.length := by
  simp [applyReset]

@[simp] theorem setChannel_nch (ch : Byte) (c : Channel) (s : State) :
    (setChannel ch c s).nch = s.nch := by
  simp [State.nch]

/-! ## What a register holds after an update -/

@[simp] theorem respond_reg (v : Int) (s : State) (n : Nat) (r : Reg) :
    (respond v s).reg? n r = s.reg? n r := rfl
@[simp] theorem respondRaw_reg (p : Word) (s : State) (n : Nat) (r : Reg) :
    (respondRaw p s).reg? n r = s.reg? n r := rfl
@[simp] theorem reject_reg (k : Status) (s : State) (n : Nat) (r : Reg) :
    (reject k s).reg? n r = s.reg? n r := rfl
@[simp] theorem answered_reg (s : State) (v : BitVec 64) (n : Nat) (r : Reg) :
    (s.answered v).reg? n r = s.reg? n r := rfl
@[simp] theorem rejected_reg (s : State) (k : BitVec 4) (n : Nat) (r : Reg) :
    (s.rejected k).reg? n r = s.reg? n r := rfl

/-- A register of a channel that exists. -/
theorem reg_of_chans {s : State} {n : Nat} {c : Channel} (h : s.chans[n]? = some c) (r : Reg) :
    s.reg? n r = some (c.read r) := by
  simp [State.reg?, h]

/-- No register where there is no channel. -/
theorem reg_of_no_chan {s : State} {n : Nat} (h : s.chans[n]? = none) (r : Reg) :
    s.reg? n r = none := by
  simp [State.reg?, h]

/-- Replacing a channel that exists replaces its registers and no other channel's. -/
theorem setChannel_reg {s : State} {ch : Byte} {c₀ : Channel} (h : s.chans[ch.toNat]? = some c₀)
    (c : Channel) (n : Nat) (r : Reg) :
    (setChannel ch c s).reg? n r = if n = ch.toNat then some (c.read r) else s.reg? n r := by
  have hlt : ch.toNat < s.chans.length := (List.getElem?_eq_some_iff.mp h).1
  by_cases hn : n = ch.toNat
  · subst hn; simp [State.reg?, hlt]
  · simp [State.reg?, hn, List.getElem?_set_ne (Ne.symm hn)]

/-- A channel exists exactly below NCH. -/
theorem chan_exists_iff (s : State) (n : Nat) : n < s.nch ↔ ∃ c, s.chans[n]? = some c := by
  constructor
  · intro h; exact ⟨s.chans[n], List.getElem?_eq_getElem h⟩
  · rintro ⟨c, h⟩; exact (List.getElem?_eq_some_iff.mp h).1

/-- A channel is missing exactly at or above NCH. -/
theorem chan_missing_iff (s : State) (n : Nat) : s.nch ≤ n ↔ s.chans[n]? = none := by
  simp [State.nch]

/-- `respond` at STATUS 0 is the `answered` of the statements. -/
theorem respond_eq_answered (v : Int) (s : State) : respond v s = s.answered (.ofInt 64 v) := rfl

/-- `respondRaw` is the `answered` of the statements. -/
theorem respondRaw_eq_answered (p : Word) (s : State) :
    respondRaw p s = s.answered (p.setWidth 64) := rfl

/-- `reject` is the `rejected` of the statements. -/
theorem reject_eq_rejected (k : Status) (s : State) : reject k s = s.rejected (statusCode k) := rfl

end Sys2Proof.Machine
end

