-- ==== Sys2Proof/Laws/Registers.lean ====
section
/-! SUPPORT. Reading and writing the registers of a channel. -/

namespace Sys2Proof.Machine

/-- A register of a bank read after a write: the written pattern there, the old one elsewhere. -/
@[simp] theorem bank_read_write (k : Bank) (r q : BankReg) (v : Word) :
    (k.write r v).read q = if q = r then v else k.read q := by
  cases r <;> cases q <;> rfl

/-- A register read after a write: the written pattern there, the old one elsewhere. -/
@[simp] theorem channel_read_write (c : Channel) (r q : Reg) (v : Word) :
    (c.write r v).read q = if q = r then v else c.read q := by
  cases r with
  | gain g r =>
    cases q with
    | gain g' q => cases g <;> cases g' <;> simp [Channel.write, Channel.read]
    | _ => cases g <;> rfl
  | _ =>
    cases q with
    | gain g' q => cases g' <;> rfl
    | _ => rfl

/-- The same for the signed write of a controller command. -/
@[simp] theorem channel_read_wr (c : Channel) (r q : Reg) (v : Int) :
    (c.wr r v).read q = if q = r then bits32 v else c.read q :=
  channel_read_write c r q (bits32 v)

/-- Two channels that read alike everywhere are the same. -/
theorem channel_ext {c d : Channel} (h : ∀ r, c.read r = d.read r) : c = d := by
  obtain ⟨⟨_, _, _, _, _, _, _, _⟩, ⟨_, _, _, _, _, _, _, _⟩, _, _, _, _, _, _⟩ := c
  obtain ⟨⟨_, _, _, _, _, _, _, _⟩, ⟨_, _, _, _, _, _, _, _⟩, _, _, _, _, _, _⟩ := d
  have ha := fun r => h (.gain .a r)
  have hb := fun r => h (.gain .b r)
  simp only [Channel.mk.injEq, Bank.mk.injEq]
  exact ⟨⟨ha .kp, ha .ki, ha .kd, ha .a0, ha .a1, ha .a0d, ha .a1d, ha .a2d⟩,
    ⟨hb .kp, hb .ki, hb .kd, hb .a0, hb .a1, hb .a0d, hb .a1d, hb .a2d⟩,
    h .x1, h .x2, h .y1, h .draw, h .dfilt, h .mask⟩

/-- What every register holds after a Reset event: its free value. -/
@[simp] theorem channel_read_mapRegs (f : Reg → Word → Word) (c : Channel) (r : Reg) :
    (c.mapRegs f).read r = f r (c.read r) := by
  cases r with
  | gain g r => cases g <;> cases r <;> rfl
  | _ => rfl

/-- A register after a Reset event holds the free value of its event, channel and index. -/
theorem applyReset_reg (s : State) (n : Nat) (r : Reg) :
    (applyReset s).reg? n r =
      (s.reg? n r).map fun before => Config.afterReset s.resets n r.index before := by
  simp only [State.reg?, applyReset, List.getElem?_mapIdx, Option.map_map]
  cases s.chans[n]? <;> simp

/-- Every register has an index of its own, which names it. -/
theorem ofIndex_index (r : Reg) : Reg.ofIndex (BitVec.ofNat 8 r.index) = some r := by
  cases r with
  | gain g r => cases g <;> cases r <;> rfl
  | _ => rfl

/-- Indexes are below 22. -/
theorem index_lt (r : Reg) : r.index < 22 := by
  cases r with
  | gain g r => cases g <;> cases r <;> decide
  | _ => decide

/-- An index below 22 names the register with that index. -/
theorem ofIndex_of_lt {idx : Byte} (h : idx.toNat < 22) :
    ∃ r : Reg, Reg.ofIndex idx = some r ∧ r.index = idx.toNat := by
  have key : ∀ n : Fin 22, (Reg.ofIndex (BitVec.ofNat 8 n.val)).map Reg.index = some n.val := by
    decide
  have hk := key ⟨idx.toNat, h⟩
  simp only [BitVec.ofNat_toNat, BitVec.setWidth_eq] at hk
  obtain ⟨r, hr, hi⟩ := Option.map_eq_some_iff.mp hk
  exact ⟨r, hr, hi⟩

/-- Two registers with one index are the same. -/
theorem index_injective {r q : Reg} (h : r.index = q.index) : r = q := by
  have := ofIndex_index r
  rw [h, ofIndex_index q] at this
  exact (Option.some.inj this).symm

end Sys2Proof.Machine
end

