-- ==== Sys2Proof/Laws/Ops.lean ====
section
/-! SUPPORT. What the shared operations over channels can do, said once. -/

namespace Sys2Proof.Machine

/-- A command on a channel that exists. -/
theorem withChannel_of_some {s : State} {ch : Byte} {c : Channel} (h : s.chans[ch.toNat]? = some c)
    (k : Channel → State → State) : withChannel ch k s = k c s := by
  simp [withChannel, h]

/-- A command on a channel that does not exist is BAD_CHANNEL. -/
theorem withChannel_of_none {s : State} {ch : Byte} (h : s.chans[ch.toNat]? = none)
    (k : Channel → State → State) : withChannel ch k s = reject .badChannel s := by
  simp [withChannel, h]

/-- A controller command on a channel that exists. -/
theorem onChannel_of_some {s : State} {ch : Byte} {c : Channel} (h : s.chans[ch.toNat]? = some c)
    (f : Channel → Channel × Int) :
    onChannel ch f s = respond (f c).2 (setChannel ch (f c).1 s) :=
  withChannel_of_some h _

/-- A controller command on a channel that does not exist is BAD_CHANNEL. -/
theorem onChannel_of_none {s : State} {ch : Byte} (h : s.chans[ch.toNat]? = none)
    (f : Channel → Channel × Int) : onChannel ch f s = reject .badChannel s :=
  withChannel_of_none h _

/-- A controller command on a channel that exists: its answer, its registers, and nothing else. -/
theorem onChannel_updated {s : State} {ch : Byte} {c : Channel} (h : s.chans[ch.toNat]? = some c)
    (f : Channel → Channel × Int) (g : Reg → Word) (hg : ∀ r, (f c).1.read r = g r) :
    s.Updated (onChannel ch f s) ch (.ofInt 64 (f c).2) g := by
  rw [onChannel_of_some h]
  refine ⟨rfl, by simp [State.nch], rfl, rfl, rfl, fun n r => ?_⟩
  rw [respond_reg, setChannel_reg h, hg]

/-- Either way, a controller command keeps the parameters, what is to be presented, the count of
resets and the registers of the other channels. -/
theorem onChannel_frame (s : State) (ch : Byte) (f : Channel → Channel × Int) :
    (onChannel ch f s).nch = s.nch ∧ (onChannel ch f s).dfsh = s.dfsh
      ∧ (onChannel ch f s).inbox = s.inbox ∧ (onChannel ch f s).resets = s.resets
      ∧ ∀ n r, n ≠ ch.toNat → (onChannel ch f s).reg? n r = s.reg? n r := by
  cases h : s.chans[ch.toNat]? with
  | none => rw [onChannel_of_none h]; exact ⟨rfl, rfl, rfl, rfl, fun _ _ _ => rfl⟩
  | some c =>
    obtain ⟨_, h1, h2, h3, h4, h5⟩ := onChannel_updated h f _ (fun _ => rfl)
    exact ⟨h1, h2, h3, h4, fun n r hn => by rw [h5, if_neg hn]⟩

/-- A register access on a channel and an index that exist. -/
theorem withRegister_of_some {s : State} {ch idx : Byte} {c : Channel} {r : Reg}
    (h : s.chans[ch.toNat]? = some c) (hr : Reg.ofIndex idx = some r)
    (k : Channel → Reg → State → State) : withRegister ch idx k s = k c r s := by
  simp [withRegister, withChannel_of_some h, hr]

/-- A register access with an index above 21 is BAD_REGISTER, the channel checked first. -/
theorem withRegister_of_bad {s : State} {ch idx : Byte} {c : Channel}
    (h : s.chans[ch.toNat]? = some c) (hr : Reg.ofIndex idx = none)
    (k : Channel → Reg → State → State) : withRegister ch idx k s = reject .badRegister s := by
  simp [withRegister, withChannel_of_some h, hr]

/-- A register access on a channel that does not exist is BAD_CHANNEL, whatever the index. -/
theorem withRegister_of_none {s : State} {ch : Byte} (idx : Byte)
    (h : s.chans[ch.toNat]? = none) (k : Channel → Reg → State → State) :
    withRegister ch idx k s = reject .badChannel s :=
  withChannel_of_none h _

end Sys2Proof.Machine
end

