-- ==== Sys2Proof/Laws/Controllers.lean ====
section
/-! SUPPORT. The shared controller operations against the bit-vector formulation: accumulator,
realign, the two branches, the filter, and the multiply that ADCQ shares. -/

namespace Sys2Proof.Machine

/-! ## Accumulator and realign -/

/-- The accumulator of a sum is the signed value of its `2W`-bit pattern (42_pi_controller.md R142). -/
theorem accumulate_eq_toInt (w : WordSize) (e : Int) :
    accumulate w e = (BitVec.ofInt (2 * bitsOf w) e).toInt := rfl

/-- Realigning an accumulator (R143). -/
theorem realign_eq_refRealign (w : WordSize) (rnd : Bool) (acc : BitVec (2 * bitsOf w)) :
    realign w rnd acc.toInt = refRealign (bitsOf w) (shiftOf w) rnd acc := by
  have h1 : 1 ≤ bitsOf w := by cases w <;> decide
  have h2 : bitsOf w ≤ 2 * bitsOf w := by omega
  rw [realign, ssat_eq_clampTo h1 h2, refRealign, toInt_sshiftRight_eq_asr]
  cases rnd with
  | false => rfl
  | true =>
    simp only [if_true]
    congr 2
    rw [wrap_eq_bmod, BitVec.toInt_add]
    have : (BitVec.ofNat (2 * bitsOf w) (2 ^ (shiftOf w - 1))).toInt = 2 ^ (shiftOf w - 1) := by
      cases w <;> decide
    rw [this]

/-- The proportional+integral branch (R141). -/
theorem piBranch_eq_refPi (w : WordSize) (g : GainSet) (rnd : Bool) (a : Word) (c : Channel) :
    piBranch w g rnd (signed (bitsOf w) a) c = refPi (bitsOf w) (shiftOf w) g rnd a c := by
  have hrd : ∀ r, c.rd w r = signed (bitsOf w) (c.read r) := fun r => by cases w <;> simp
  simp only [piBranch, hrd, refPi, accumulate_eq_toInt, realign_eq_refRealign]
  simp only [BitVec.ofInt_add, ← shiftLeft_ofInt]
  simp only [BitVec.ofInt_mul, ← wide_eq_ofInt]

/-- The raw derivative (43_pid_controller.md R163). -/
theorem rawDerivative_eq_refDraw (w : WordSize) (g : GainSet) (a : Word) (c : Channel) :
    rawDerivative w g (signed (bitsOf w) a) c = refDraw (bitsOf w) (shiftOf w) g a c := by
  have hrd : ∀ r, c.rd w r = signed (bitsOf w) (c.read r) := fun r => by cases w <;> simp
  have hreal : ∀ acc : Int, ssat (asr acc (shiftOf w)) (bitsOf w) (2 * bitsOf w)
      = realign w false acc := fun _ => rfl
  simp only [rawDerivative, hrd, refDraw, hreal, accumulate_eq_toInt, realign_eq_refRealign]
  simp only [BitVec.ofInt_add, BitVec.ofInt_mul, ← wide_eq_ofInt]

/-- The output of the proportional+integral branch is a `W`-bit value. -/
theorem refRealign_range (n k : Nat) (rnd : Bool) (acc : BitVec (2 * n)) :
    -(2 ^ (n - 1)) ≤ refRealign n k rnd acc ∧ refRealign n k rnd acc ≤ 2 ^ (n - 1) - 1 :=
  clampTo_range _ _

/-! ## The derivative filter -/

/-- The floor of a difference over a power of two lies between 0 and the difference
(43_pid_controller.md R164). -/
theorem asr_between (d : Int) (k : Nat) : min 0 d ≤ asr d k ∧ asr d k ≤ max 0 d := by
  have hp : (0 : Int) < 2 ^ k := by positivity
  have hp1 : (1 : Int) ≤ 2 ^ k := by omega
  unfold asr
  rcases le_total 0 d with h | h
  · rw [min_eq_left h, max_eq_right h]
    exact ⟨Int.ediv_nonneg h hp.le, Int.ediv_le_self _ h⟩
  · rw [min_eq_right h, max_eq_left h]
    refine ⟨?_, ?_⟩
    · rw [Int.le_ediv_iff_mul_le hp]; nlinarith
    · have := Int.ediv_le_ediv hp h; simpa using this

/-- The filtered derivative lies between the old one and the raw one (R164). -/
theorem filterDerivative_between (k : Nat) (df draw : Int) :
    min df draw ≤ filterDerivative k df draw ∧ filterDerivative k df draw ≤ max df draw := by
  have h := asr_between (draw - df) k
  simp only [filterDerivative]
  omega

/-! ## Multiply -/

/-- The exact product of two `W`-bit values, and when it is largest. -/
theorem product_range {m x y : Int} (hx : -m ≤ x ∧ x < m) (hy : -m ≤ y ∧ y < m) :
    -(m * (m - 1)) ≤ x * y ∧ x * y ≤ m * m ∧ (¬(x = -m ∧ y = -m) → x * y ≤ m * (m - 1)) := by
  obtain ⟨hx1, hx2⟩ := hx
  obtain ⟨hy1, hy2⟩ := hy
  refine ⟨?_, by nlinarith, fun hne => ?_⟩
  · rcases le_total 0 x with h | h <;> rcases le_total 0 y with h' | h' <;> nlinarith
  · by_cases h : x = -m
    · have : y ≠ -m := fun h' => hne ⟨h, h'⟩
      subst h; nlinarith [show -m + 1 ≤ y by omega]
    · rcases le_total 0 x with h' | h' <;> rcases le_total 0 y with h'' | h'' <;>
        nlinarith [show -m + 1 ≤ x by omega]

end Sys2Proof.Machine
end

