-- ==== Sys2Proof/Laws/Decode.lean ====
section
/-! SUPPORT. Header words and their fields, opcodes and their bytes, and what the decoder can answer. -/

namespace Sys2Proof

/-! ## Header words -/

/-- The fields of a header word that was put together from fields are those fields. -/
@[simp] theorem header_ofWord_toWord (h : Header) : Header.ofWord h.toWord = h := by
  obtain ⟨op, w, sel, rnd, rst, m, zero, ch, imm⟩ := h
  simp only [Header.ofWord, Header.toWord, Header.mk.injEq]
  refine ⟨?_, by simp, by simp, by simp, by simp, by simp, ?_, ?_, ?_⟩ <;> ext i hi <;>
    interval_cases i <;> simp

/-- A header word is put together from its fields: they cover all 32 bits. -/
@[simp] theorem header_toWord_ofWord (x : Word) : (Header.ofWord x).toWord = x := by
  simp only [Header.ofWord, Header.toWord]
  ext i hi
  interval_cases i <;> simp

/-- A word is the header of given fields exactly when its fields are those. -/
theorem header_eq_toWord_iff (x : Word) (h : Header) : x = h.toWord ↔ Header.ofWord x = h := by
  constructor
  · rintro rfl; simp
  · rintro rfl; simp

/-- The fields of a masked header word are the fields, each masked with the mask's field. -/
theorem header_ofWord_and (x y : Word) : Header.ofWord (x &&& y) =
    { op := (Header.ofWord x).op &&& (Header.ofWord y).op
      w := (Header.ofWord x).w && (Header.ofWord y).w
      sel := (Header.ofWord x).sel && (Header.ofWord y).sel
      rnd := (Header.ofWord x).rnd && (Header.ofWord y).rnd
      rst := (Header.ofWord x).rst && (Header.ofWord y).rst
      m := (Header.ofWord x).m && (Header.ofWord y).m
      zero := (Header.ofWord x).zero &&& (Header.ofWord y).zero
      ch := (Header.ofWord x).ch &&& (Header.ofWord y).ch
      imm := (Header.ofWord x).imm &&& (Header.ofWord y).imm } := by
  simp [Header.ofWord, BitVec.extractLsb'_and]

/-- Two header words with the same fields are the same. -/
theorem header_ofWord_injective {x y : Word} (h : Header.ofWord x = Header.ofWord y) : x = y := by
  rw [← header_toWord_ofWord x, h, header_toWord_ofWord]

/-- The header words of the statements by their fields (30_encoding.md R82). -/
theorem headerWord_eq_toWord (op : Byte) (w sel rnd rst m : Bool) (ch imm : Byte) :
    Machine.headerWord ((op.setWidth 32 <<< 24) ||| ((BitVec.ofBool w).setWidth 32 <<< 23))
        sel rnd rst m ch imm
      = { op := op, w := w, sel := sel, rnd := rnd, rst := rst, m := m, zero := 0, ch := ch,
          imm := imm : Header }.toWord := by
  have hz : (BitVec.setWidth 32 (0 : BitVec 3)) <<< 16 = 0#32 := by decide
  simp only [Machine.headerWord, Header.toWord, hz, BitVec.or_zero]

/-! ## Opcodes -/

/-- The byte of an opcode names it. -/
@[simp] theorem opcode_ofByte_byte (op : Opcode) : Opcode.ofByte op.byte = some op := by
  cases op <;> rfl

/-- A byte names an opcode exactly when it is that opcode's byte. -/
theorem opcode_ofByte_eq_some_iff (b : Byte) (op : Opcode) :
    Opcode.ofByte b = some op ↔ b = op.byte := by
  constructor
  · intro h
    unfold Opcode.ofByte at h
    split at h <;> cases h <;> exact BitVec.eq_of_toNat_eq ‹_›
  · rintro rfl; exact opcode_ofByte_byte op

/-! ## Gain sets -/

@[simp] theorem gainSet_ofSel_sel (g : GainSet) : GainSet.ofSel g.sel = g := by cases g <;> rfl
@[simp] theorem gainSet_sel_ofSel (b : Bool) : (GainSet.ofSel b).sel = b := by cases b <;> rfl

/-! ## The decoder -/

/-- An undefined opcode is illegal. -/
theorem decode_of_undefined {k : Command} (h : Opcode.ofByte (Header.ofWord k.hdr).op = none) :
    decode k = .error .undefinedOp := by
  simp only [decode, h]

/-- A defined opcode: the check of its must-be-zero fields, then its instruction. -/
theorem decode_of_opcode {k : Command} {op : Opcode} (h : (Header.ofWord k.hdr).op = op.byte) :
    decode k = if (Header.ofWord k.hdr).fits op then op.instr (Header.ofWord k.hdr) k
      else .error .reservedField := by
  simp only [decode, (opcode_ofByte_eq_some_iff _ _).mpr h]

/-- What a command that decodes is: a defined opcode, no must-be-zero field set, and the
instruction of that opcode. -/
theorem decode_eq_ok_iff (k : Command) (i : Instr) :
    decode k = .ok i ↔ ∃ op, (Header.ofWord k.hdr).op = op.byte ∧
      (Header.ofWord k.hdr).fits op = true ∧ op.instr (Header.ofWord k.hdr) k = .ok i := by
  constructor
  · intro hd
    cases h : Opcode.ofByte (Header.ofWord k.hdr).op with
    | none => rw [decode_of_undefined h] at hd; cases hd
    | some op =>
      have hop := (opcode_ofByte_eq_some_iff _ _).mp h
      rw [decode_of_opcode hop] at hd
      split at hd
      · exact ⟨op, hop, ‹_›, hd⟩
      · cases hd
  · rintro ⟨op, h1, h2, h3⟩
    rw [decode_of_opcode h1, if_pos h2, h3]

/-- A command whose `OP` byte is an opcode's but which has a must-be-zero field set is illegal. -/
theorem decode_of_not_fits {k : Command} {op : Opcode} (h : (Header.ofWord k.hdr).op = op.byte)
    (hf : (Header.ofWord k.hdr).fits op = false) : decode k = .error .reservedField := by
  rw [decode_of_opcode h, if_neg (by simp [hf])]

end Sys2Proof
end

