-- ==== Sys2Proof/Laws/Exec.lean ====
section
/-! SUPPORT. What one instruction can do, said once, and what one step can do. -/

namespace Sys2Proof.Machine

/-- A controller command is a rejection, or an answer with its channel replaced. -/
theorem onChannel_outcome (s : State) (ch : Byte) (f : Channel → Channel × Int) :
    (s.chans[ch.toNat]? = none ∧ onChannel ch f s = s.rejected 2)
      ∨ ∃ c, s.chans[ch.toNat]? = some c
        ∧ onChannel ch f s = (setChannel ch (f c).1 s).answered (.ofInt 64 (f c).2) := by
  cases h : s.chans[ch.toNat]? with
  | none => exact .inl ⟨rfl, by rw [onChannel_of_none h]; rfl⟩
  | some c => exact .inr ⟨c, rfl, by rw [onChannel_of_some h]; rfl⟩

/-- Every instruction, in every state, answers a next state that is a rejection, an answer with no
register changed, or an answer with the one channel it names replaced. -/
theorem exec_outcome (i : Instr) (s : State) :
    (∃ k : BitVec 4, (k = 1 ∨ k = 2 ∨ k = 3) ∧ exec i s = .next (s.rejected k))
      ∨ (∃ res, exec i s = .next (s.answered res))
      ∨ ∃ ch c c' res, i.channel? = some ch ∧ s.chans[ch.toNat]? = some c
        ∧ exec i s = .next ((setChannel ch c' s).answered res) := by
  have onc : ∀ (ch : Byte) (f : Channel → Channel × Int), i.channel? = some ch →
      exec i s = .next (onChannel ch f s) →
      (∃ k : BitVec 4, (k = 1 ∨ k = 2 ∨ k = 3) ∧ exec i s = .next (s.rejected k))
      ∨ (∃ res, exec i s = .next (s.answered res))
      ∨ ∃ ch c c' res, i.channel? = some ch ∧ s.chans[ch.toNat]? = some c
        ∧ exec i s = .next ((setChannel ch c' s).answered res) := fun ch f hch he => by
    rcases onChannel_outcome s ch f with ⟨_, h⟩ | ⟨c, hc, h⟩
    · exact .inl ⟨2, .inr (.inl rfl), by rw [he, h]⟩
    · exact .inr (.inr ⟨ch, c, _, _, hch, hc, by rw [he, h]⟩)
  cases i with
  | adcqQ15 sh a b c =>
    by_cases h : sh.toNat < 16
    · exact .inr (.inl ⟨.ofInt 64 (adcConvert .q15 sh.toNat a b c), by
        simp only [exec, execAdcqQ15, adcq, bitsOf, h, if_true]; rfl⟩)
    · exact .inl ⟨1, .inl rfl, by simp only [exec, execAdcqQ15, adcq, bitsOf, h, if_false]; rfl⟩
  | adcqQ31 sh a b c =>
    by_cases h : sh.toNat < 32
    · exact .inr (.inl ⟨.ofInt 64 (adcConvert .q31 sh.toNat a b c), by
        simp only [exec, execAdcqQ31, adcq, bitsOf, h, if_true]; rfl⟩)
    · exact .inl ⟨1, .inl rfl, by simp only [exec, execAdcqQ31, adcq, bitsOf, h, if_false]; rfl⟩
  | piinitQ15 g rst ch => exact onc ch _ rfl rfl
  | piinitQ31 g rst ch => exact onc ch _ rfl rfl
  | piupdQ15 g rnd ch a => exact onc ch _ rfl rfl
  | piupdQ31 g rnd ch a => exact onc ch _ rfl rfl
  | pidinitQ15 g rst ch => exact onc ch _ rfl rfl
  | pidinitQ31 g rst ch => exact onc ch _ rfl rfl
  | pidupdQ15 g rnd m ch a => exact onc ch _ rfl rfl
  | pidupdQ31 g rnd m ch a => exact onc ch _ rfl rfl
  | rdreg ch idx =>
    cases hc : s.chans[ch.toNat]? with
    | none => exact .inl ⟨2, .inr (.inl rfl), by
        simp only [exec, execRdreg, withRegister_of_none idx hc]; rfl⟩
    | some c =>
      cases hr : Reg.ofIndex idx with
      | none => exact .inl ⟨3, .inr (.inr rfl), by
          simp only [exec, execRdreg, withRegister_of_bad hc hr]; rfl⟩
      | some r => exact .inr (.inl ⟨(c.read r).setWidth 64, by
          simp only [exec, execRdreg, withRegister_of_some hc hr]; rfl⟩)
  | wrreg ch idx a =>
    cases hc : s.chans[ch.toNat]? with
    | none => exact .inl ⟨2, .inr (.inl rfl), by
        simp only [exec, execWrreg, withRegister_of_none idx hc]; rfl⟩
    | some c =>
      cases hr : Reg.ofIndex idx with
      | none => exact .inl ⟨3, .inr (.inr rfl), by
          simp only [exec, execWrreg, withRegister_of_bad hc hr]; rfl⟩
      | some r => exact .inr (.inr ⟨ch, c, c.write r a, 0, rfl, hc, by
          simp only [exec, execWrreg, withRegister_of_some hc hr]; rfl⟩)
  | _ => exact .inr (.inl ⟨_, rfl⟩)

end Sys2Proof.Machine
end

