-- ==== Sys2Proof/Laws/PerInstr.lean ====
section
/-! SUPPORT. For each instruction: its encoding is a word of its own row of spec/opcode_table.json
(mask and match, 30_encoding.md R78), the row uses `CH` when the instruction names a channel, and the
operand words it does not read are written as zero (R82). -/

namespace Sys2Proof

open Sys2Proof.Machine (OpcodeRow opcodeTable)

/-- The place of an instruction's row in spec/opcode_table.json. -/
def Instr.rowIndex : Instr → Nat
  | .ssat32 .. => 0
  | .ssat64 .. => 1
  | .qaddQ15 .. => 2
  | .qaddQ31 .. => 3
  | .qsubQ15 .. => 4
  | .qsubQ31 .. => 5
  | .mulQ15 .. => 6
  | .mulQ31 .. => 7
  | .mulsatQ15 .. => 8
  | .mulsatQ31 .. => 9
  | .absQ15 .. => 10
  | .absQ31 .. => 11
  | .abssatQ15 .. => 12
  | .abssatQ31 .. => 13
  | .piinitQ15 .. => 14
  | .piinitQ31 .. => 15
  | .piupdQ15 .. => 16
  | .piupdQ31 .. => 17
  | .pidinitQ15 .. => 18
  | .pidinitQ31 .. => 19
  | .pidupdQ15 .. => 20
  | .pidupdQ31 .. => 21
  | .adcqQ15 .. => 22
  | .adcqQ31 .. => 23
  | .rdreg .. => 24
  | .wrreg .. => 25

/-- The encoding of the instruction is a word of its row. -/
def Laws.RowMatch.Statement (i : Instr) : Prop :=
  (∃ row : OpcodeRow, opcodeTable[i.rowIndex]? = some row ∧ (encode i).hdr &&& row.mask = row.value
      ∧ row.usesCh = i.channel?.isSome)
    ∧ (i.readsA = false → (encode i).a = 0) ∧ (i.readsB = false → (encode i).b = 0)
    ∧ (i.readsC = false → (encode i).c = 0)

/-- A header is of a row when its fields under the mask are the fields of the match. -/
theorem toWord_and_eq {h : Header} {mask value : Word}
    (hf : Header.ofWord (h.toWord &&& mask) = Header.ofWord value) :
    h.toWord &&& mask = value :=
  header_ofWord_injective hf

theorem Laws.RowMatch.ssat32 (bits : Byte) (a : Word) : Laws.RowMatch.Statement (.ssat32 bits a) := by
  refine ⟨⟨_, rfl, toWord_and_eq ?_, rfl⟩, ?_, ?_, ?_⟩
  · rw [header_ofWord_and, header_ofWord_toWord]
    simp [Instr.header, Header.ofOpcode, Opcode.byte, Header.ofWord]
  all_goals simp [Instr.readsA, Instr.readsB, Instr.readsC, encode, Instr.operands]

theorem Laws.RowMatch.ssat64 (bits : Byte) (a b : Word) : Laws.RowMatch.Statement (.ssat64 bits a b) := by
  refine ⟨⟨_, rfl, toWord_and_eq ?_, rfl⟩, ?_, ?_, ?_⟩
  · rw [header_ofWord_and, header_ofWord_toWord]
    simp [Instr.header, Header.ofOpcode, Opcode.byte, Header.ofWord]
  all_goals simp [Instr.readsA, Instr.readsB, Instr.readsC, encode, Instr.operands]

theorem Laws.RowMatch.qaddQ15 (a b : Word) : Laws.RowMatch.Statement (.qaddQ15 a b) := by
  refine ⟨⟨_, rfl, toWord_and_eq ?_, rfl⟩, ?_, ?_, ?_⟩
  · rw [header_ofWord_and, header_ofWord_toWord]
    simp [Instr.header, Header.ofOpcode, Opcode.byte, Header.ofWord]
  all_goals simp [Instr.readsA, Instr.readsB, Instr.readsC, encode, Instr.operands]

theorem Laws.RowMatch.qaddQ31 (a b : Word) : Laws.RowMatch.Statement (.qaddQ31 a b) := by
  refine ⟨⟨_, rfl, toWord_and_eq ?_, rfl⟩, ?_, ?_, ?_⟩
  · rw [header_ofWord_and, header_ofWord_toWord]
    simp [Instr.header, Header.ofOpcode, Opcode.byte, Header.ofWord]
  all_goals simp [Instr.readsA, Instr.readsB, Instr.readsC, encode, Instr.operands]

theorem Laws.RowMatch.qsubQ15 (a b : Word) : Laws.RowMatch.Statement (.qsubQ15 a b) := by
  refine ⟨⟨_, rfl, toWord_and_eq ?_, rfl⟩, ?_, ?_, ?_⟩
  · rw [header_ofWord_and, header_ofWord_toWord]
    simp [Instr.header, Header.ofOpcode, Opcode.byte, Header.ofWord]
  all_goals simp [Instr.readsA, Instr.readsB, Instr.readsC, encode, Instr.operands]

theorem Laws.RowMatch.qsubQ31 (a b : Word) : Laws.RowMatch.Statement (.qsubQ31 a b) := by
  refine ⟨⟨_, rfl, toWord_and_eq ?_, rfl⟩, ?_, ?_, ?_⟩
  · rw [header_ofWord_and, header_ofWord_toWord]
    simp [Instr.header, Header.ofOpcode, Opcode.byte, Header.ofWord]
  all_goals simp [Instr.readsA, Instr.readsB, Instr.readsC, encode, Instr.operands]

theorem Laws.RowMatch.mulQ15 (a b : Word) : Laws.RowMatch.Statement (.mulQ15 a b) := by
  refine ⟨⟨_, rfl, toWord_and_eq ?_, rfl⟩, ?_, ?_, ?_⟩
  · rw [header_ofWord_and, header_ofWord_toWord]
    simp [Instr.header, Header.ofOpcode, Opcode.byte, Header.ofWord]
  all_goals simp [Instr.readsA, Instr.readsB, Instr.readsC, encode, Instr.operands]

theorem Laws.RowMatch.mulQ31 (a b : Word) : Laws.RowMatch.Statement (.mulQ31 a b) := by
  refine ⟨⟨_, rfl, toWord_and_eq ?_, rfl⟩, ?_, ?_, ?_⟩
  · rw [header_ofWord_and, header_ofWord_toWord]
    simp [Instr.header, Header.ofOpcode, Opcode.byte, Header.ofWord]
  all_goals simp [Instr.readsA, Instr.readsB, Instr.readsC, encode, Instr.operands]

theorem Laws.RowMatch.mulsatQ15 (a b : Word) : Laws.RowMatch.Statement (.mulsatQ15 a b) := by
  refine ⟨⟨_, rfl, toWord_and_eq ?_, rfl⟩, ?_, ?_, ?_⟩
  · rw [header_ofWord_and, header_ofWord_toWord]
    simp [Instr.header, Header.ofOpcode, Opcode.byte, Header.ofWord]
  all_goals simp [Instr.readsA, Instr.readsB, Instr.readsC, encode, Instr.operands]

theorem Laws.RowMatch.mulsatQ31 (a b : Word) : Laws.RowMatch.Statement (.mulsatQ31 a b) := by
  refine ⟨⟨_, rfl, toWord_and_eq ?_, rfl⟩, ?_, ?_, ?_⟩
  · rw [header_ofWord_and, header_ofWord_toWord]
    simp [Instr.header, Header.ofOpcode, Opcode.byte, Header.ofWord]
  all_goals simp [Instr.readsA, Instr.readsB, Instr.readsC, encode, Instr.operands]

theorem Laws.RowMatch.absQ15 (a : Word) : Laws.RowMatch.Statement (.absQ15 a) := by
  refine ⟨⟨_, rfl, toWord_and_eq ?_, rfl⟩, ?_, ?_, ?_⟩
  · rw [header_ofWord_and, header_ofWord_toWord]
    simp [Instr.header, Header.ofOpcode, Opcode.byte, Header.ofWord]
  all_goals simp [Instr.readsA, Instr.readsB, Instr.readsC, encode, Instr.operands]

theorem Laws.RowMatch.absQ31 (a : Word) : Laws.RowMatch.Statement (.absQ31 a) := by
  refine ⟨⟨_, rfl, toWord_and_eq ?_, rfl⟩, ?_, ?_, ?_⟩
  · rw [header_ofWord_and, header_ofWord_toWord]
    simp [Instr.header, Header.ofOpcode, Opcode.byte, Header.ofWord]
  all_goals simp [Instr.readsA, Instr.readsB, Instr.readsC, encode, Instr.operands]

theorem Laws.RowMatch.abssatQ15 (a : Word) : Laws.RowMatch.Statement (.abssatQ15 a) := by
  refine ⟨⟨_, rfl, toWord_and_eq ?_, rfl⟩, ?_, ?_, ?_⟩
  · rw [header_ofWord_and, header_ofWord_toWord]
    simp [Instr.header, Header.ofOpcode, Opcode.byte, Header.ofWord]
  all_goals simp [Instr.readsA, Instr.readsB, Instr.readsC, encode, Instr.operands]

theorem Laws.RowMatch.abssatQ31 (a : Word) : Laws.RowMatch.Statement (.abssatQ31 a) := by
  refine ⟨⟨_, rfl, toWord_and_eq ?_, rfl⟩, ?_, ?_, ?_⟩
  · rw [header_ofWord_and, header_ofWord_toWord]
    simp [Instr.header, Header.ofOpcode, Opcode.byte, Header.ofWord]
  all_goals simp [Instr.readsA, Instr.readsB, Instr.readsC, encode, Instr.operands]

theorem Laws.RowMatch.piinitQ15 (sel : GainSet) (rst : Bool) (ch : Byte) : Laws.RowMatch.Statement (.piinitQ15 sel rst ch) := by
  refine ⟨⟨_, rfl, toWord_and_eq ?_, rfl⟩, ?_, ?_, ?_⟩
  · rw [header_ofWord_and, header_ofWord_toWord]
    simp [Instr.header, Header.ofOpcode, Opcode.byte, Header.ofWord]
  all_goals simp [Instr.readsA, Instr.readsB, Instr.readsC, encode, Instr.operands]

theorem Laws.RowMatch.piinitQ31 (sel : GainSet) (rst : Bool) (ch : Byte) : Laws.RowMatch.Statement (.piinitQ31 sel rst ch) := by
  refine ⟨⟨_, rfl, toWord_and_eq ?_, rfl⟩, ?_, ?_, ?_⟩
  · rw [header_ofWord_and, header_ofWord_toWord]
    simp [Instr.header, Header.ofOpcode, Opcode.byte, Header.ofWord]
  all_goals simp [Instr.readsA, Instr.readsB, Instr.readsC, encode, Instr.operands]

theorem Laws.RowMatch.piupdQ15 (sel : GainSet) (rnd : Bool) (ch : Byte) (a : Word) : Laws.RowMatch.Statement (.piupdQ15 sel rnd ch a) := by
  refine ⟨⟨_, rfl, toWord_and_eq ?_, rfl⟩, ?_, ?_, ?_⟩
  · rw [header_ofWord_and, header_ofWord_toWord]
    simp [Instr.header, Header.ofOpcode, Opcode.byte, Header.ofWord]
  all_goals simp [Instr.readsA, Instr.readsB, Instr.readsC, encode, Instr.operands]

theorem Laws.RowMatch.piupdQ31 (sel : GainSet) (rnd : Bool) (ch : Byte) (a : Word) : Laws.RowMatch.Statement (.piupdQ31 sel rnd ch a) := by
  refine ⟨⟨_, rfl, toWord_and_eq ?_, rfl⟩, ?_, ?_, ?_⟩
  · rw [header_ofWord_and, header_ofWord_toWord]
    simp [Instr.header, Header.ofOpcode, Opcode.byte, Header.ofWord]
  all_goals simp [Instr.readsA, Instr.readsB, Instr.readsC, encode, Instr.operands]

theorem Laws.RowMatch.pidinitQ15 (sel : GainSet) (rst : Bool) (ch : Byte) : Laws.RowMatch.Statement (.pidinitQ15 sel rst ch) := by
  refine ⟨⟨_, rfl, toWord_and_eq ?_, rfl⟩, ?_, ?_, ?_⟩
  · rw [header_ofWord_and, header_ofWord_toWord]
    simp [Instr.header, Header.ofOpcode, Opcode.byte, Header.ofWord]
  all_goals simp [Instr.readsA, Instr.readsB, Instr.readsC, encode, Instr.operands]

theorem Laws.RowMatch.pidinitQ31 (sel : GainSet) (rst : Bool) (ch : Byte) : Laws.RowMatch.Statement (.pidinitQ31 sel rst ch) := by
  refine ⟨⟨_, rfl, toWord_and_eq ?_, rfl⟩, ?_, ?_, ?_⟩
  · rw [header_ofWord_and, header_ofWord_toWord]
    simp [Instr.header, Header.ofOpcode, Opcode.byte, Header.ofWord]
  all_goals simp [Instr.readsA, Instr.readsB, Instr.readsC, encode, Instr.operands]

theorem Laws.RowMatch.pidupdQ15 (sel : GainSet) (rnd m : Bool) (ch : Byte) (a : Word) : Laws.RowMatch.Statement (.pidupdQ15 sel rnd m ch a) := by
  refine ⟨⟨_, rfl, toWord_and_eq ?_, rfl⟩, ?_, ?_, ?_⟩
  · rw [header_ofWord_and, header_ofWord_toWord]
    simp [Instr.header, Header.ofOpcode, Opcode.byte, Header.ofWord]
  all_goals simp [Instr.readsA, Instr.readsB, Instr.readsC, encode, Instr.operands]

theorem Laws.RowMatch.pidupdQ31 (sel : GainSet) (rnd m : Bool) (ch : Byte) (a : Word) : Laws.RowMatch.Statement (.pidupdQ31 sel rnd m ch a) := by
  refine ⟨⟨_, rfl, toWord_and_eq ?_, rfl⟩, ?_, ?_, ?_⟩
  · rw [header_ofWord_and, header_ofWord_toWord]
    simp [Instr.header, Header.ofOpcode, Opcode.byte, Header.ofWord]
  all_goals simp [Instr.readsA, Instr.readsB, Instr.readsC, encode, Instr.operands]

theorem Laws.RowMatch.adcqQ15 (sh : Byte) (a b c : Word) : Laws.RowMatch.Statement (.adcqQ15 sh a b c) := by
  refine ⟨⟨_, rfl, toWord_and_eq ?_, rfl⟩, ?_, ?_, ?_⟩
  · rw [header_ofWord_and, header_ofWord_toWord]
    simp [Instr.header, Header.ofOpcode, Opcode.byte, Header.ofWord]
  all_goals simp [Instr.readsA, Instr.readsB, Instr.readsC, encode, Instr.operands]

theorem Laws.RowMatch.adcqQ31 (sh : Byte) (a b c : Word) : Laws.RowMatch.Statement (.adcqQ31 sh a b c) := by
  refine ⟨⟨_, rfl, toWord_and_eq ?_, rfl⟩, ?_, ?_, ?_⟩
  · rw [header_ofWord_and, header_ofWord_toWord]
    simp [Instr.header, Header.ofOpcode, Opcode.byte, Header.ofWord]
  all_goals simp [Instr.readsA, Instr.readsB, Instr.readsC, encode, Instr.operands]

theorem Laws.RowMatch.rdreg (ch idx : Byte) : Laws.RowMatch.Statement (.rdreg ch idx) := by
  refine ⟨⟨_, rfl, toWord_and_eq ?_, rfl⟩, ?_, ?_, ?_⟩
  · rw [header_ofWord_and, header_ofWord_toWord]
    simp [Instr.header, Header.ofOpcode, Opcode.byte, Header.ofWord]
  all_goals simp [Instr.readsA, Instr.readsB, Instr.readsC, encode, Instr.operands]

theorem Laws.RowMatch.wrreg (ch idx : Byte) (a : Word) : Laws.RowMatch.Statement (.wrreg ch idx a) := by
  refine ⟨⟨_, rfl, toWord_and_eq ?_, rfl⟩, ?_, ?_, ?_⟩
  · rw [header_ofWord_and, header_ofWord_toWord]
    simp [Instr.header, Header.ofOpcode, Opcode.byte, Header.ofWord]
  all_goals simp [Instr.readsA, Instr.readsB, Instr.readsC, encode, Instr.operands]

end Sys2Proof
end

