-- ==== Sys2Proof/Tests/Slice0.lean ====
section
/-! SUPPORT. The model's own tests. Expected words and results are those of the spec: encodings from
30_encoding.md R72 to R74, results from 95_test_vectors.md and 96_test_vectors_controllers.md. After
them, one witness for each obligation that has hypotheses. -/

namespace Sys2Proof.Tests

open Sys2Proof Sys2Proof.Machine

/-! ## Helpers -/

/-- A block of two channels, DFSH 2, whose channel 0 holds the listed patterns and zero elsewhere. -/
def block (l : List (Reg × Word)) : State :=
  { State.reset with chans := [l.foldl (fun c p => c.write p.1 p.2) .zero, .zero] }

/-- STATUS and RES of what one command answers. -/
def said (r : Result) : Option (BitVec 4 × BitVec 64) :=
  match r with
  | .next t => t.resp.map fun x => (x.status, x.res)
  | _ => none

/-- The patterns of registers of channel `n` after one command. -/
def left (r : Result) (n : Nat) (l : List Reg) : List (Option Word) :=
  match r with
  | .next t => l.map (t.reg? n)
  | _ => []

/-- One command with the given four words. -/
def run (hdr a b c : Word) (s : State) : Result := runCommand ⟨hdr, a, b, c⟩ s

/-- One command in a block whose registers are all zero. -/
def fresh (hdr a b c : Word) : Option (BitVec 4 × BitVec 64) := said (run hdr a b c (block []))

/-! ## WellFormed: the one check, at its bounds (44_adc_convert.md R190) -/

theorem test_wf_refuses_adcq15_shift_16 : (Instr.adcqQ15 16 0 0 0).wf = false := by decide
theorem test_wf_refuses_adcq31_shift_32 : (Instr.adcqQ31 32 0 0 0).wf = false := by decide
theorem test_wf_takes_the_largest_shifts :
    (Instr.adcqQ15 15 0 0 0).wf = true ∧ (Instr.adcqQ31 31 0 0 0).wf = true := by decide

/-! ## Decode: a word for every constructor, bit by bit from R72 -/

theorem test_decode_saturate :
    decode ⟨0b00000001_0_0_0_0_0_000_00000000_00001000, 1000, 0, 0⟩ = .ok (.ssat32 8 1000)
      ∧ decode ⟨0b00000010_0_0_0_0_0_000_00000000_00100000, 1, 2, 0⟩ = .ok (.ssat64 32 1 2) := by
  decide

theorem test_decode_add_subtract :
    decode ⟨0b00010000_0_0_0_0_0_000_00000000_00000000, 1, 2, 0⟩ = .ok (.qaddQ15 1 2)
      ∧ decode ⟨0b00010000_1_0_0_0_0_000_00000000_00000000, 1, 2, 0⟩ = .ok (.qaddQ31 1 2)
      ∧ decode ⟨0b00010001_0_0_0_0_0_000_00000000_00000000, 1, 2, 0⟩ = .ok (.qsubQ15 1 2)
      ∧ decode ⟨0b00010001_1_0_0_0_0_000_00000000_00000000, 1, 2, 0⟩ = .ok (.qsubQ31 1 2) := by
  decide

theorem test_decode_multiply :
    decode ⟨0b00010010_0_0_0_0_0_000_00000000_00000000, 1, 2, 0⟩ = .ok (.mulQ15 1 2)
      ∧ decode ⟨0b00010010_1_0_0_0_0_000_00000000_00000000, 1, 2, 0⟩ = .ok (.mulQ31 1 2)
      ∧ decode ⟨0b00010011_0_0_0_0_0_000_00000000_00000000, 1, 2, 0⟩ = .ok (.mulsatQ15 1 2)
      ∧ decode ⟨0b00010011_1_0_0_0_0_000_00000000_00000000, 1, 2, 0⟩ = .ok (.mulsatQ31 1 2) := by
  decide

theorem test_decode_absolute :
    decode ⟨0b00010100_0_0_0_0_0_000_00000000_00000000, 1, 2, 0⟩ = .ok (.absQ15 1)
      ∧ decode ⟨0b00010100_1_0_0_0_0_000_00000000_00000000, 1, 2, 0⟩ = .ok (.absQ31 1)
      ∧ decode ⟨0b00010101_0_0_0_0_0_000_00000000_00000000, 1, 2, 0⟩ = .ok (.abssatQ15 1)
      ∧ decode ⟨0b00010101_1_0_0_0_0_000_00000000_00000000, 1, 2, 0⟩ = .ok (.abssatQ31 1) := by
  decide

theorem test_decode_pi :
    decode ⟨0b00100000_0_1_0_0_0_000_10000001_00000000, 1, 2, 3⟩ = .ok (.piinitQ15 .b false 129)
      ∧ decode ⟨0b00100000_1_0_0_1_0_000_00000010_00000000, 1, 2, 3⟩ = .ok (.piinitQ31 .a true 2)
      ∧ decode ⟨0b00100001_0_0_1_0_0_000_10000001_00000000, 1, 2, 3⟩ = .ok (.piupdQ15 .a true 129 1)
      ∧ decode ⟨0b00100001_1_1_0_0_0_000_00000010_00000000, 1, 2, 3⟩
          = .ok (.piupdQ31 .b false 2 1) := by
  decide

theorem test_decode_pid :
    decode ⟨0b00100010_0_1_0_0_0_000_10000001_00000000, 1, 2, 3⟩ = .ok (.pidinitQ15 .b false 129)
      ∧ decode ⟨0b00100010_1_0_0_1_0_000_00000010_00000000, 1, 2, 3⟩ = .ok (.pidinitQ31 .a true 2)
      ∧ decode ⟨0b00100011_0_0_1_0_0_000_10000001_00000000, 1, 2, 3⟩
          = .ok (.pidupdQ15 .a true false 129 1)
      ∧ decode ⟨0b00100011_1_1_0_0_1_000_00000010_00000000, 1, 2, 3⟩
          = .ok (.pidupdQ31 .b false true 2 1) := by
  decide

theorem test_decode_adc :
    decode ⟨0b00110000_0_0_0_0_0_000_00000000_00001111, 1, 2, 3⟩ = .ok (.adcqQ15 15 1 2 3)
      ∧ decode ⟨0b00110000_1_0_0_0_0_000_00000000_00010100, 1, 2, 3⟩ = .ok (.adcqQ31 20 1 2 3) := by
  decide

theorem test_decode_register_access :
    decode ⟨0b01000000_0_0_0_0_0_000_00000001_00010101, 1, 2, 3⟩ = .ok (.rdreg 1 21)
      ∧ decode ⟨0b01000001_0_0_0_0_0_000_10000000_00000111, 1, 2, 3⟩ = .ok (.wrreg 128 7 1) := by
  decide

/-- The table's numbering of bits: HDR in bits 31:0, then A, B, C; bits above `nbits` are zero. -/
theorem test_decode_table_words :
    decodeTableWord 32 0x11800000 = some (.qsubQ31 0 0)
      ∧ decodeTableWord 128 0x00000000_00000002_00000001_11800000 = some (.qsubQ31 1 2)
      ∧ decodeTableWord 128 0x00000003_00000002_00000001_30000004 = some (.adcqQ15 4 1 2 3)
      ∧ decodeTableWord 32 0x00000000_00000002_00000001_11800000 = some (.qsubQ31 0 0)
      ∧ decodeTableWord 32 0x16000000 = none := by
  decide

/-! ## Saturate, add, subtract -/

theorem test_ssat32 : fresh 0x01000008 0xFFFFFC18 0xDEADBEEF 0xFFFFFFFF = some (0, 0xFFFFFFFFFFFFFF80)
    ∧ fresh 0x01000021 0x0001E240 0 0 = some (0, 0x000000000001E240) := by decide
theorem test_ssat64 : fresh 0x02000020 0 0x00000100 0 = some (0, 0x000000007FFFFFFF)
    ∧ fresh 0x02000041 0 0x00000100 0 = some (0, 0x0000010000000000) := by decide
theorem test_qadd15 : fresh 0x10000000 0x8000 0xFFFF 0 = some (0, 0xFFFFFFFFFFFF8000) := by decide
theorem test_qadd31 : fresh 0x10800000 0x7FFFFFFF 1 0 = some (0, 0x000000007FFFFFFF) := by decide
theorem test_qsub15 : fresh 0x11000000 0 0x8000 0 = some (0, 0x0000000000007FFF) := by decide
theorem test_qsub31 : fresh 0x11800000 0x1000 0x2000 0 = some (0, 0xFFFFFFFFFFFFF000) := by decide

/-! ## Multiply and absolute value -/

theorem test_mul15 : fresh 0x12000000 0x8000 0x8000 0 = some (0, 0xFFFFFFFFFFFF8000)
    ∧ fresh 0x12000000 0xFFFF 0x0001 0 = some (0, 0xFFFFFFFFFFFFFFFF) := by decide
theorem test_mul31 : fresh 0x12800000 0x40000000 0x40000000 0 = some (0, 0x0000000020000000)
    ∧ fresh 0x12800000 0x80000000 0x80000000 0 = some (0, 0xFFFFFFFF80000000) := by decide
theorem test_mulsat15 : fresh 0x13000000 0x7FFF 0x8001 0 = some (0, 0xFFFFFFFFFFFF8000)
    ∧ fresh 0x13000000 0x8000 0x8000 0 = some (0, 0x0000000000007FFE) := by decide
theorem test_mulsat31 :
    fresh 0x13800000 0x7FFFFFFF 0x80000001 0 = some (0, 0xFFFFFFFF80000000)
      ∧ fresh 0x13800000 0x80000000 0x80000000 0 = some (0, 0x000000007FFFFFFE) := by decide
theorem test_abs15 : fresh 0x14000000 0x8000 0 0 = some (0, 0xFFFFFFFFFFFF8000)
    ∧ fresh 0x14000000 0xEDCC 0 0 = some (0, 0x0000000000001234) := by decide
theorem test_abs31 : fresh 0x14800000 0x80000000 0 0 = some (0, 0xFFFFFFFF80000000) := by decide
theorem test_abssat15 : fresh 0x15000000 0x8000 0 0 = some (0, 0x0000000000007FFF)
    ∧ fresh 0x15000000 0xFFFF 0 0 = some (0, 1) := by decide
theorem test_abssat31 : fresh 0x15800000 0x80000000 0 0 = some (0, 0x000000007FFFFFFF) := by decide

/-! ## ADC conversion -/

theorem test_adcq15 :
    fresh 0x30000004 0x0A00 0xF800 0x4000 = some (0, 0x0000000000001000)
      ∧ fresh 0x30000004 0x0FFF 0 0x7FFF = some (0, 0xFFFFFFFFFFFFFFF0) := by decide
theorem test_adcq31 :
    fresh 0x30800014 0x00000A00 0xFFFFF800 0x40000000 = some (0, 0x0000000010000000) := by decide

/-! ## PI controller (96_test_vectors_controllers.md V17 to V24) -/

/-- V17, row 6: set B, upper halves of the gains ignored. -/
theorem test_piinit15 :
    left (run 0x20400000 0 0 0 (block [(.gain .b .kp, 0xFFFF00C0), (.gain .b .ki, 0x12340080)])) 0
        [.gain .b .a0, .gain .b .a1, .gain .a .a0]
      = [some 0x00000140, some 0xFFFFFF40, some 0] := by decide
/-- V17, row 7: A0 saturates. -/
theorem test_piinit31 :
    left (run 0x20C00000 0 0 0 (block [(.gain .b .kp, 0x7FFFFFFF), (.gain .b .ki, 1)])) 0
        [.gain .b .a0, .gain .b .a1] = [some 0x7FFFFFFF, some 0x80000001] := by decide

/-- V18: the accumulator -192 with and without rounding. -/
theorem test_piupd15 :
    said (run 0x21000000 1 0 0 (block [(.gain .a .a0, 0xFFFFFF40)])) = some (0, 0xFFFFFFFFFFFFFFFE)
      ∧ said (run 0x21200000 1 0 0 (block [(.gain .a .a0, 0xFFFFFF40)]))
        = some (0, 0xFFFFFFFFFFFFFFFF) := by decide
/-- V20, step 2, and V24, row 4: the 64-bit accumulator wraps. -/
theorem test_piupd31 :
    said (run 0x21800000 0x0CCCCCCD 0 0 (block [(.gain .a .a0, 0x00014000),
        (.gain .a .a1, 0xFFFF4000), (.x1, 0x0CCCCCCD), (.y1, 0x20000000)])) = some (0, 0x2CCCCCCD)
      ∧ said (run 0x21800000 0x80000000 0 0 (block [(.gain .a .a0, 0x80000000),
        (.gain .a .a1, 0x80000000), (.x1, 0x80000000)])) = some (0, 0xFFFFFFFF80000000) := by decide

/-! ## PID controller (V25 to V28, P2) -/

/-- V25, rows 4 and 6. -/
theorem test_pidinit15 :
    left (run 0x22000000 0 0 0 (block [(.gain .a .kd, 0x00004001)])) 0
        [.gain .a .a0d, .gain .a .a1d, .gain .a .a2d]
      = [some 0x00004001, some 0xFFFF8000, some 0x00004001]
      ∧ left (run 0x22000000 0 0 0 (block [(.gain .a .kd, 0x0000BFFF)])) 0
        [.gain .a .a0d, .gain .a .a1d] = [some 0xFFFFBFFF, some 0x00007FFF] := by decide
/-- V25, row 14, with RST: X2 and DFILT zeroed, MASK kept. -/
theorem test_pidinit31 :
    left (run 0x22900000 0 0 0 (block [(.gain .a .kd, 0x80000000), (.x2, 5), (.dfilt, 6),
        (.mask, 7)])) 0 [.gain .a .a1d, .x2, .dfilt, .mask]
      = [some 0x7FFFFFFF, some 0, some 0, some 7] := by decide

/-- V26, step 2. -/
theorem test_pidupd15 :
    left (run 0x23000000 0x1000 0 0 (block [(.gain .a .a0, 0x60), (.gain .a .a1, 0xFFFFFFC0),
        (.gain .a .a0d, 0x80), (.gain .a .a1d, 0xFFFFFF00), (.gain .a .a2d, 0x80), (.x1, 0x1000),
        (.y1, 0x1000), (.draw, 0x1000), (.dfilt, 0x400)])) 0 [.x1, .x2, .y1, .draw, .dfilt]
      = [some 0x1000, some 0x1000, some 0x1300, some 0xFFFFF000, some 0xFFFFFF00] := by decide
/-- V28, step 1 and step 4: held while MASK is positive, computed when it is negative. -/
theorem test_pidupd15_mask :
    left (run 0x23080000 0x7FFF 0 0 (block [(.y1, 0x1234), (.mask, 1)])) 0 [.x1, .y1, .mask]
      = [some 0, some 0x1234, some 0]
      ∧ left (run 0x23080000 0x0100 0 0 (block [(.gain .a .a0, 0x60), (.gain .a .a1, 0xFFFFFFC0),
        (.x1, 0x100), (.y1, 0x12F4), (.mask, 0xFFFFFFFF)])) 0 [.y1, .mask]
      = [some 0x1334, some 0xFFFFFFFF] := by decide
/-- P2, step 9, on channel 0. -/
theorem test_pidupd31 :
    said (run 0x23C80000 0x10000000 0 0 (block [(.gain .b .a0, 0x6000), (.gain .b .a1, 0xFFFFC000),
        (.gain .b .a0d, 0x1000), (.gain .b .a1d, 0xFFFFE000), (.gain .b .a2d, 0x1000),
        (.x1, 0x10000000), (.y1, 0x0C800000), (.dfilt, 0x00800000)])) = some (0, 0x10600000) := by
  decide

/-! ## Register access and rejections (V30 to V33) -/

theorem test_rdreg :
    said (run 0x40000004 0 0 0 (block [(.gain .a .a1, 0xFFFFFF40)])) = some (0, 0x00000000FFFFFF40)
      ∧ said (run 0x40000015 0 0 0 (block [(.mask, 0x80000000)])) = some (0, 0x80000000) := by decide
theorem test_wrreg :
    left (run 0x41000115 0xDEADBEEF 0 0 (block [(.mask, 1)])) 1 [.mask, .dfilt]
      = [some 0xDEADBEEF, some 0]
      ∧ left (run 0x41000115 0xDEADBEEF 0 0 (block [(.mask, 1)])) 0 [.mask] = [some 1] := by decide

theorem test_rejections :
    fresh 0x00000000 0 0 0 = some (1, 0) ∧ fresh 0xFFFFFFFF 0 0 0 = some (1, 0)
      ∧ fresh 0x16000000 0 0 0 = some (1, 0) ∧ fresh 0x21080000 0 0 0 = some (1, 0)
      ∧ fresh 0x30000010 0 0 0 = some (1, 0) ∧ fresh 0x30800020 0 0 0 = some (1, 0)
      ∧ fresh 0x4080FFC8 0 0 0 = some (1, 0) ∧ fresh 0x4000FFC8 0 0 0 = some (2, 0)
      ∧ fresh 0x400000C8 0 0 0 = some (3, 0) ∧ fresh 0x40000016 0 0 0 = some (3, 0)
      ∧ fresh 0x41000016 0 0 0 = some (3, 0) ∧ fresh 0x20000200 0 0 0 = some (2, 0) := by decide

/-! ## The port -/

/-- With nothing presented, no answer; a Reset event, no answer and one event more. -/
theorem test_step_without_a_command :
    said (step State.reset) = none
      ∧ (match step { State.reset with inbox := [.reset] } with
         | .next t => (t.resets, t.inbox, t.nch) | _ => (0, [.reset], 0)) = (1, [], 2) := by decide

/-- The instruction placed at reset runs in the very next step. -/
theorem test_placed_word_runs :
    said (step (State.reset.withFetchWord 128 0x00000000_00000001_7FFFFFFF_10800000))
      = some (0, 0x7FFFFFFF) := by decide

/-! ## Witnesses: states and operands that meet the hypotheses of each obligation -/

/-- A channel 1 that exists, with MASK 1. -/
def held : State := { block [] with chans := [.zero, Channel.zero.write .mask 1] }

theorem witness_DecodeOfEncodeIsIdentity :
    (Instr.adcqQ31 31 1 2 3).wf = true ∧ (Instr.wrreg 255 255 1).wf = true := by decide

theorem witness_DecodedInstructionKeepsHeaderAndReadOperands :
    decode ⟨0x23E80100, 5, 6, 7⟩ = .ok (.pidupdQ31 .b true true 1 5) := by decide

theorem witness_UnusedOperandBitsAreIgnored :
    decode ⟨0x14000000, 5, 6, 7⟩ = .ok (.absQ15 5) ∧ (Instr.absQ15 5).readsB = false
      ∧ (Instr.absQ15 5).readsC = false ∧ (Command.mk 0x14000000 5 0 1).hdr = 0x14000000 := by
  decide

theorem witness_PrimitivesMeetTheirDefinitions :
    wrap 1 3 = -1 ∧ -(2 ^ (1 - 1)) ≤ (-1 : Int) ∧ (-1 : Int) ≤ 2 ^ (1 - 1) - 1
      ∧ (2 ^ 1 : Int) ∣ 3 - -1 ∧ asr (-5) 1 = -3 := by decide

theorem witness_SsatIsTheExactClamp :
    ssat (-3) 1 32 = -1 ∧ ssat 5 32 32 = 5 ∧ ssat 5 33 32 = 5 ∧ ssat 5 0 64 = 5
      ∧ ssat (2 ^ 63) 64 64 = 2 ^ 63 - 1 ∧ ssat (2 ^ 63) 65 64 = 2 ^ 63 := by decide

theorem witness_AdcqConvertsTheRawSample :
    (15 : Byte).toNat < 16 ∧ (31 : Byte).toNat < 32 ∧ 16 ≤ (16 : Byte).toNat
      ∧ 32 ≤ (255 : Byte).toNat ∧ (0x30400000#32).extractLsb' 24 8 = 0x30#8
      ∧ 0x30400000#32 &&& 0x007FFF00 ≠ 0 := by decide

theorem witness_AdcqIsExactWhenTheShiftedSampleFits :
    (-32768 : Int) = (((0 : Word).setWidth 16).toNat + signed 16 0xFFFF) * 2 ^ (15 : Byte).toNat
      ∧ (32767 : Int) = (((0x7FFF : Word).setWidth 16).toNat + signed 16 0) * 2 ^ (0 : Byte).toNat
      ∧ (-2147483648 : Int) = ((0 : Word).toNat + signed 32 0xFFFFFFFF) * 2 ^ (31 : Byte).toNat
      ∧ (2147483647 : Int) = ((0x7FFFFFFF : Word).toNat + signed 32 0) * 2 ^ (0 : Byte).toNat := by
  decide

theorem witness_StatelessCommandsReadAndWriteNoRegister :
    (Instr.ssat32 8 1000).channel? = none ∧ (Instr.adcqQ31 32 1 2 3).channel? = none := by decide

/-- The first and the last channel exist, the next does not. -/
theorem witness_channels :
    (block []).chans[(0 : Byte).toNat]? = some .zero ∧ (block []).chans[(1 : Byte).toNat]? = some .zero
      ∧ (block []).nch ≤ (2 : Byte).toNat ∧ (block []).nch ≤ (255 : Byte).toNat := by decide

theorem witness_PiinitDerivesTheCoefficients :
    (block []).chans[(1 : Byte).toNat]? = some .zero ∧ (block []).nch ≤ (2 : Byte).toNat
      ∧ (0x20200000#32).extractLsb' 24 8 = 0x20#8 ∧ 0x20200000#32 &&& 0x002F00FF ≠ 0 := by decide

theorem witness_PiupdIsTheAccumulatorDatapath :
    (block []).chans[(1 : Byte).toNat]? = some .zero ∧ (block []).nch ≤ (2 : Byte).toNat
      ∧ (0x21000001#32).extractLsb' 24 8 = 0x21#8 ∧ 0x21000001#32 &&& 0x001F00FF ≠ 0 := by decide

/-- A channel with both coefficients of set A at the bound. -/
def bounded (a0 a1 : Word) : Channel :=
  (Channel.zero.write (.gain .a .a0) a0).write (.gain .a .a1) a1

theorem witness_PiupdIsExactForHalfScaleCoefficients :
    (block [(.gain .a .a0, 0x4000), (.gain .a .a1, 0xC000)]).chans[(0 : Byte).toNat]?
        = some (bounded 0x4000 0xC000)
      ∧ (16384 : Int) = signed 16 ((bounded 0x4000 0xC000).read (.gain .a .a0))
      ∧ (-16384 : Int) = signed 16 ((bounded 0x4000 0xC000).read (.gain .a .a1))
      ∧ |(16384 : Int)| ≤ 2 ^ 14 ∧ |(-16384 : Int)| ≤ 2 ^ 14
      ∧ (1073741824 : Int) = signed 32 ((bounded 0x40000000 0xC0000000).read (.gain .a .a0))
      ∧ |(1073741824 : Int)| ≤ 2 ^ 30 := by decide

theorem witness_PiupdRealisesTheDiscreteIntegrator :
    (block [(.gain .a .a0, 320), (.gain .a .a1, 0xFFFFFF40)]).chans[(0 : Byte).toNat]?
        = some (bounded 320 0xFFFFFF40)
      ∧ signed 16 ((bounded 320 0xFFFFFF40).read (.gain .a .a0)) = 192 + 128
      ∧ signed 16 ((bounded 320 0xFFFFFF40).read (.gain .a .a1)) = -192
      ∧ signed 32 ((bounded 320 0xFFFFFF40).read (.gain .a .a1)) = -192
      ∧ |(192 + 128 : Int)| ≤ 2 ^ 14 ∧ |(192 : Int)| ≤ 2 ^ 14 := by decide

theorem witness_ZeroInputKeepsZeroOutput :
    (block []).reg? (1 : Byte).toNat .x1 = some 0 ∧ (block []).reg? (1 : Byte).toNat .y1 = some 0
      ∧ [Instr.piupdQ15 .a true 1 0xFFFF0000, Instr.piupdQ31 .b false 1 0] ≠ []
      ∧ ∀ i ∈ [Instr.piupdQ15 .a true 1 0xFFFF0000, Instr.piupdQ31 .b false 1 0],
          i.zeroSampleOn 1 = true := by decide

theorem witness_PidinitDerivesTheCoefficients :
    (block []).chans[(1 : Byte).toNat]? = some .zero ∧ (block []).nch ≤ (2 : Byte).toNat
      ∧ (0x22080000#32).extractLsb' 24 8 = 0x22#8 ∧ 0x22080000#32 &&& 0x002F00FF ≠ 0 := by decide

theorem witness_PidupdIsTheTwoBranchDatapath :
    held.chans[(1 : Byte).toNat]? = some (Channel.zero.write .mask 1)
      ∧ (true = true ∧ 0 < ((Channel.zero.write .mask 1).read .mask).toInt)
      ∧ ¬ (true = true ∧ 0 < (Channel.zero.read .mask).toInt)
      ∧ ¬ (false = true ∧ 0 < ((Channel.zero.write .mask 1).read .mask).toInt)
      ∧ (block []).nch ≤ (2 : Byte).toNat
      ∧ (0x23100000#32).extractLsb' 24 8 = 0x23#8 ∧ 0x23100000#32 &&& 0x001700FF ≠ 0 := by decide

theorem witness_MaskCountsDownOverHeldSamples :
    held.reg? (1 : Byte).toNat .mask = some 1 ∧ held.reg? (1 : Byte).toNat .y1 = some 0
      ∧ ([Instr.pidupdQ31 .b true true 1 5].length : Int) ≤ (1 : Word).toInt
      ∧ (∀ i ∈ [Instr.pidupdQ31 .b true true 1 5], i.maskedSampleOn 1 = true)
      ∧ held.reg? (0 : Byte).toNat .mask = some 0 ∧ (0 : Word).toInt ≤ 0
      ∧ (block [(.mask, 0xFFFFFFFF)]).reg? (0 : Byte).toNat .mask = some 0xFFFFFFFF
      ∧ (0xFFFFFFFF : Word).toInt ≤ 0 := by decide

theorem witness_FilteredDerivativeLiesBetween :
    (block [(.dfilt, 0x8000)]).chans[(0 : Byte).toNat]? = some (Channel.zero.write .dfilt 0x8000)
      ∧ ({ block [] with dfsh := 0 } : State).dfsh = 0 := by decide

theorem witness_PidupdWithoutDerivativeIsPiupd :
    (block [(.dfilt, 0x10000)]).chans[(0 : Byte).toNat]? = some (Channel.zero.write .dfilt 0x10000)
      ∧ signed 16 ((Channel.zero.write .dfilt 0x10000).read (.gain .a .a0d)) = 0
      ∧ signed 16 ((Channel.zero.write .dfilt 0x10000).read (.gain .a .a1d)) = 0
      ∧ signed 16 ((Channel.zero.write .dfilt 0x10000).read (.gain .a .a2d)) = 0
      ∧ signed 16 ((Channel.zero.write .dfilt 0x10000).read .dfilt) = 0
      ∧ (block []).chans[(1 : Byte).toNat]? = some .zero
      ∧ Channel.zero.read (.gain .a .a0d) = 0 ∧ Channel.zero.read (.gain .a .a1d) = 0
      ∧ Channel.zero.read (.gain .a .a2d) = 0 ∧ Channel.zero.read .dfilt = 0 := by decide

theorem witness_Q15CommandsWriteSignExtendedPatterns :
    (∃ t, exec (.piinitQ15 .a true 0) (block []) = .next t)
      ∧ (∃ t, exec (.piupdQ15 .a true 0 5) (block []) = .next t)
      ∧ (∃ t, exec (.pidinitQ15 .b false 1) (block []) = .next t)
      ∧ (∃ t, exec (.pidupdQ15 .b true true 1 5) held = .next t) ∧ (Reg.x1 ≠ Reg.mask) :=
  ⟨⟨_, rfl⟩, ⟨_, rfl⟩, ⟨_, rfl⟩, ⟨_, rfl⟩, by decide⟩

theorem witness_RdregAnswersTheRawPattern :
    (1 : Byte).toNat < (block []).nch ∧ (21 : Byte).toNat ≤ 21 ∧ (0 : Byte).toNat ≤ 21
      ∧ (block []).nch ≤ (2 : Byte).toNat ∧ 21 < (22 : Byte).toNat
      ∧ (0x40010000#32).extractLsb' 24 8 = 0x40#8 ∧ 0x40010000#32 &&& 0x00FF0000 ≠ 0 := by decide

theorem witness_WrregReplacesOneRegister :
    (block []).chans[(1 : Byte).toNat]? = some .zero ∧ (21 : Byte).toNat ≤ 21
      ∧ (block []).nch ≤ (2 : Byte).toNat ∧ (1 : Byte).toNat < (block []).nch
      ∧ 21 < (22 : Byte).toNat
      ∧ (0x41800000#32).extractLsb' 24 8 = 0x41#8 ∧ 0x41800000#32 &&& 0x00FF0000 ≠ 0 := by decide

theorem witness_RdregSeesTheLastWrreg :
    (0 : Byte).toNat < (block []).nch ∧ (1 : Byte).toNat < (block []).nch
      ∧ (0 : Byte).toNat ≤ 21 ∧ (21 : Byte).toNat ≤ 21 := by decide

theorem witness_RejectedCommandChangesNothing :
    ∃ t r, runCommand ⟨0x40000016, 0, 0, 0⟩ (block []) = .next t ∧ t.resp = some r
      ∧ r.status ≠ 0 :=
  ⟨_, _, rfl, rfl, by decide⟩

theorem witness_StepRunsTheDecodedInstruction :
    ({ block [] with inbox := [.command ⟨0x11800000, 5, 6, 7⟩, .reset] } : State).inbox
        = .command ⟨0x11800000, 5, 6, 7⟩ :: [.reset]
      ∧ decode ⟨0x11800000, 5, 6, 7⟩ = .ok (.qsubQ31 5 6) ∧ (Instr.qsubQ31 5 6).wf = true := by
  decide

theorem witness_StepRejectsAnIllegalCommand :
    ({ block [] with inbox := [.command ⟨0x30000010, 0, 0, 0⟩] } : State).inbox
        = .command ⟨0x30000010, 0, 0, 0⟩ :: []
      ∧ decode ⟨0x30000010, 0, 0, 0⟩ = .error .adcShift := by decide

theorem witness_EveryStepTakesOneInputAndKeepsTheParameters :
    ∃ t, step { block [] with inbox := [.command ⟨0x11800000, 5, 6, 7⟩] } = .next t := ⟨_, rfl⟩

theorem witness_IdleStepHoldsTheRegisters : (block []).inbox = [] := by decide

theorem witness_ResetEventLeavesTheBlockReady :
    ({ block [] with inbox := [.reset] } : State).inbox = .reset :: []
      ∧ (Instr.mulQ15 1 2).channel? = none
      ∧ (∃ u, exec (.mulQ15 1 2) (block []) = .next u)
      ∧ ∃ v, exec (.mulQ15 1 2) (applyReset (block [])) = .next v :=
  ⟨rfl, rfl, ⟨_, rfl⟩, ⟨_, rfl⟩⟩

theorem witness_PlacedWordIsTheNextInstruction :
    decodeTableWord 32 0x41000115 = some (.wrreg 1 21 0) := by decide

theorem witness_StepKeepsTheInvariant : State.reset.Inv ∧ ∃ t, step State.reset = .next t := by
  refine ⟨⟨by decide, by decide, fun r h => ?_⟩, ⟨_, rfl⟩⟩
  cases h

theorem witness_OtherChannelsAreUnchanged :
    (∃ t, exec (.wrreg 1 21 5) (block []) = .next t)
      ∧ (∀ ch, (Instr.wrreg 1 21 5).channel? = some ch → 0 ≠ ch.toNat) := by
  refine ⟨⟨_, rfl⟩, fun ch h => ?_⟩
  cases h
  decide

theorem witness_CommandsReadOnlyTheirOwnChannel :
    (Instr.pidupdQ31 .b true true 1 5).channel? = some 1
      ∧ (block [(.x1, 7)]).chans[(1 : Byte).toNat]? = (block []).chans[(1 : Byte).toNat]?
      ∧ (block [(.x1, 7)]).dfsh = (block []).dfsh := by decide

theorem witness_GainsActOnlyThroughInit :
    (∀ ch idx a, Instr.pidinitQ31 .a true 0 ≠ .wrreg ch idx a)
      ∧ (∃ t, exec (.pidinitQ31 .a true 0) (block []) = .next t)
      ∧ (Instr.pidupdQ31 .a true true 0 5).readsGains = false
      ∧ (block [(.gain .a .kp, 7)]).SameButGains (block []) := by
  refine ⟨(fun _ _ _ h => by cases h), ⟨_, rfl⟩, rfl, rfl, rfl, fun n r h => ?_⟩
  match n with
  | 0 =>
    cases r with
    | gain g r =>
      cases g <;> cases r <;> first | rfl | exact absurd rfl (h .a).1
    | _ => rfl
  | 1 => rfl
  | _ + 2 => rfl

end Sys2Proof.Tests
end

section
/-! PROOFS. 00_scope.md: the primitive functions meet their definitions, and every step keeps the
invariant. What a command and a step can do is said here once, for later proofs about the step. -/

namespace Sys2Proof.Machine

/-! ## Primitive functions -/

/-- `wrap` is the one integer of the signed range congruent to its argument (00_scope.md R12). -/
theorem wrap_eq_iff {n : Nat} (hn : 1 ≤ n) (v r : Int) :
    wrap n v = r ↔ -(2 ^ (n - 1)) ≤ r ∧ r ≤ 2 ^ (n - 1) - 1 ∧ (2 ^ n : Int) ∣ v - r := by
  obtain ⟨m, rfl⟩ : ∃ m, n = m + 1 := ⟨n - 1, by omega⟩
  have lower : (2 ^ (m + 1) : Int) / 2 = 2 ^ m := by rw [pow_succ]; omega
  have upper : ((2 ^ (m + 1) : Int) + 1) / 2 = 2 ^ m := by rw [pow_succ]; omega
  rw [wrap_eq_bmod, Int.bmod_eq_iff (by positivity), dvd_sub_comm, Nat.add_sub_cancel]
  push_cast
  rw [lower, upper, Int.le_sub_one_iff]

/-- `asr` is the floor of the quotient by the power of two (00_scope.md R10, R12). -/
theorem asr_eq_iff (v q : Int) (k : Nat) : asr v k = q ↔ q * 2 ^ k ≤ v ∧ v < (q + 1) * 2 ^ k := by
  rw [asr, Int.ediv_eq_iff_of_pos (by positivity), add_one_mul]

/-- The unsigned view of a `.Q15` operand is its low 16 bits (00_scope.md R13). -/
theorem uW_q15_eq_emod (x : Word) : uW .q15 x = x.toNat % 65536 := by
  simp [uW]

/-- The unsigned view of a `.Q31` operand is the whole word (R13). -/
theorem uW_q31_eq_toNat (x : Word) : uW .q31 x = x.toNat := rfl

/-- The signed view of a `.Q15` operand is the two's-complement reading of its low 16 bits (R13). -/
theorem sW_q15_eq_ite (x : Word) :
    sW .q15 x = if x.toNat % 65536 < 32768 then (x.toNat % 65536 : Int)
      else (x.toNat % 65536 : Int) - 65536 := by
  have low : (x.setWidth 16).toNat = x.toNat % 65536 := BitVec.toNat_setWidth 16 x
  rw [sW, BitVec.toInt_eq_toNat_cond, low]
  split <;> split <;> omega

/-- The signed view of a `.Q31` operand is the two's-complement reading of the word (R13). -/
theorem sW_q31_eq_ite (x : Word) :
    sW .q31 x = if x.toNat < 2147483648 then (x.toNat : Int) else (x.toNat : Int) - 4294967296 := by
  rw [sW, BitVec.toInt_eq_toNat_cond]
  split <;> split <;> omega

/-- Settles O6, one lemma for each primitive and each view. -/
theorem primitivesMeetTheirDefinitions : Obligations.PrimitivesMeetTheirDefinitions :=
  ⟨fun _ v r hn => wrap_eq_iff hn v r, asr_eq_iff,
    fun x => ⟨uW_q15_eq_emod x, uW_q31_eq_toNat x⟩,
    fun x => ⟨sW_q15_eq_ite x, sW_q31_eq_ite x⟩⟩

/-! ## What a step is -/

/-- With nothing presented the block is idle (60_exceptions.md R225). -/
theorem step_of_empty {s : State} (h : s.inbox = []) : step s = .next (idle s) := by
  simp [step, stepPort, h]

/-- A Reset event next at the port is taken and applied (70_reset_and_hazards.md R240). -/
theorem step_of_reset {s : State} {rest : List Input} (h : s.inbox = .reset :: rest) :
    step s = .next (applyReset { s with inbox := rest }) := by
  simp [step, stepPort, h]

/-- A command next at the port is taken and run (30_encoding.md R70). -/
theorem step_of_command {s : State} {k : Command} {rest : List Input}
    (h : s.inbox = .command k :: rest) : step s = runCommand k { s with inbox := rest } := by
  simp [step, stepPort, h]

/-- A command that decodes runs its instruction. -/
theorem runCommand_of_ok {k : Command} {i : Instr} (h : decode k = .ok i) (s : State) :
    runCommand k s = exec i s := by
  simp [runCommand, h]

/-- An illegal command is rejected with ILLEGAL_COMMAND, whichever check it fails (R75, R78). -/
theorem runCommand_of_error {k : Command} {e : Illegal} (h : decode k = .error e) (s : State) :
    runCommand k s = .next (s.rejected 1) := by
  simp [runCommand, h, reject_eq_rejected, statusCode]

/-! ## Responses the block can give -/

/-- A response with STATUS 0 is legal, whatever it answers (60_exceptions.md R211). -/
theorem legal_of_ok (res : BitVec 64) : Response.Legal { status := 0, res := res } :=
  ⟨Nat.zero_le 3, fun h => absurd rfl h⟩

/-- A rejection with one of the three codes is legal (R211, R212). -/
theorem legal_of_rejection {k : BitVec 4} (h : k = 1 ∨ k = 2 ∨ k = 3) :
    Response.Legal { status := k, res := 0 } := by
  refine ⟨?_, fun _ => rfl⟩
  obtain rfl | rfl | rfl := h <;> decide

/-- Every instruction keeps NCH and gives a legal response. -/
theorem exec_answers_legally (i : Instr) (s : State) :
    ∃ t r, exec i s = .next t ∧ t.nch = s.nch ∧ t.resp = some r ∧ r.Legal := by
  obtain ⟨k, hk, he⟩ | ⟨res, he⟩ | ⟨ch, c, c', res, -, -, he⟩ := exec_outcome i s
  · exact ⟨_, _, he, rfl, rfl, legal_of_rejection hk⟩
  · exact ⟨_, _, he, rfl, rfl, legal_of_ok res⟩
  · exact ⟨_, _, he, setChannel_nch ch c' s, rfl, legal_of_ok res⟩

/-- Every command, legal or not, keeps NCH and gets a legal response. -/
theorem runCommand_answers_legally (k : Command) (s : State) :
    ∃ t r, runCommand k s = .next t ∧ t.nch = s.nch ∧ t.resp = some r ∧ r.Legal := by
  cases h : decode k with
  | ok i => rw [runCommand_of_ok h]; exact exec_answers_legally i s
  | error e => exact ⟨_, _, runCommand_of_error h s, rfl, rfl, legal_of_rejection (.inl rfl)⟩

/-! ## The invariant -/

/-- The invariant goes to a state with the same NCH that holds no response. -/
theorem State.Inv.of_no_response {s t : State} (hs : s.Inv) (hn : t.nch = s.nch)
    (hr : t.resp = none) : t.Inv := by
  obtain ⟨low, high, -⟩ := hs
  exact ⟨hn ▸ low, hn ▸ high, by simp [hr]⟩

/-- The invariant goes to a state with the same NCH that holds a legal response. -/
theorem State.Inv.of_response {s t : State} {r : Response} (hs : s.Inv) (hn : t.nch = s.nch)
    (hr : t.resp = some r) (hl : r.Legal) : t.Inv := by
  obtain ⟨low, high, -⟩ := hs
  refine ⟨hn ▸ low, hn ▸ high, fun q hq => ?_⟩
  obtain rfl : r = q := Option.some.inj (hr.symm.trans hq)
  exact hl

/-- Reset with a number of channels the spec allows meets the invariant (00_scope.md R6). -/
theorem resetWith_inv {cfg : Config} (low : 1 ≤ cfg.nch) (high : cfg.nch ≤ 256) :
    (State.resetWith cfg).Inv := by
  have nch : (State.resetWith cfg).nch = cfg.nch := List.length_replicate
  exact ⟨nch ▸ low, nch ▸ high, fun _ h => nomatch h⟩

/-- Settles O44: two channels, and no response. -/
theorem resetStateMeetsTheInvariant : Obligations.ResetStateMeetsTheInvariant :=
  resetWith_inv (cfg := .ofReset) (by decide) (by decide)

/-- Settles O43, by cases on what is next at the port. -/
theorem stepKeepsTheInvariant : Obligations.StepKeepsTheInvariant := by
  intro s t hs hstep
  match hin : s.inbox with
  | [] =>
    cases (step_of_empty hin).symm.trans hstep
    exact hs.of_no_response rfl rfl
  | .reset :: rest =>
    cases (step_of_reset hin).symm.trans hstep
    exact hs.of_no_response (applyReset_nch _) rfl
  | .command k :: rest =>
    obtain ⟨u, r, hrun, hn, hr, hl⟩ := runCommand_answers_legally k { s with inbox := rest }
    cases ((step_of_command hin).trans hrun).symm.trans hstep
    exact hs.of_response hn hr hl

end Sys2Proof.Machine
end

section
/-! PROOFS. 10_state.md: the register map, the commands that leave the register file alone, and the
patterns that the `.Q15` controller commands leave in it. -/

namespace Sys2Proof.Machine

/-! ## The register map -/

/-- A byte names a register exactly when it is that register's index (10_state.md R24). -/
theorem ofIndex_eq_some_iff (idx : Byte) (r : Reg) :
    Reg.ofIndex idx = some r ↔ idx.toNat = r.index := by
  constructor
  · intro h
    unfold Reg.ofIndex at h
    split at h <;> cases h <;> exact ‹_›
  · intro h
    rw [← ofIndex_index r, ← h, BitVec.ofNat_toNat, BitVec.setWidth_eq]

/-- An index above 21 names nothing (20_memory.md R56). -/
theorem ofIndex_of_ge {idx : Byte} (h : 22 ≤ idx.toNat) : Reg.ofIndex idx = none := by
  refine Option.eq_none_iff_forall_ne_some.mpr fun r hr => ?_
  have named : idx.toNat = r.index := (ofIndex_eq_some_iff idx r).mp hr
  have below : r.index < 22 := index_lt r
  omega

/-- Settles O30: the table of R24 evaluated, and a byte above it is no register's index. -/
theorem registerIndexesAreTheMap : Obligations.RegisterIndexesAreTheMap :=
  ⟨rfl, fun _ => ofIndex_of_ge⟩

/-! ## Commands that name no channel -/

/-- ADCQ answers or rejects by its shift alone, and either way only the response changes. -/
theorem adcq_response (w : WordSize) (sh : Byte) (a b c : Word) :
    ∃ r : Response, ∀ s : State, adcq w sh a b c s = { s with resp := some r } := by
  by_cases h : sh.toNat < bitsOf w
  · exact ⟨_, fun s => if_pos h⟩
  · exact ⟨_, fun s => if_neg h⟩

/-- Settles O18: every meaning without a channel is one `respond` of its operands, but for ADCQ,
which can also reject. -/
theorem statelessCommandsReadAndWriteNoRegister :
    Obligations.StatelessCommandsReadAndWriteNoRegister := by
  intro i hi
  cases i with
  | piinitQ15 | piinitQ31 | piupdQ15 | piupdQ31 | pidinitQ15 | pidinitQ31 | pidupdQ15 | pidupdQ31
  | rdreg | wrreg => cases hi
  | adcqQ15 sh a b c =>
    obtain ⟨r, hr⟩ := adcq_response .q15 sh a b c
    exact ⟨r, fun s => congrArg Host.Outcome.next (hr s)⟩
  | adcqQ31 sh a b c =>
    obtain ⟨r, hr⟩ := adcq_response .q31 sh a b c
    exact ⟨r, fun s => congrArg Host.Outcome.next (hr s)⟩
  | _ => exact ⟨_, fun _ => rfl⟩

/-! ## Values of 16 bits and their patterns -/

/-- A signed value of 16 bits. -/
def FitsQ15 (v : Int) : Prop := -32768 ≤ v ∧ v ≤ 32767

/-- A pattern whose bits 31:16 equal bit 15 (10_state.md R29). -/
def SignExtendedQ15 (p : Word) : Prop := p = (p.setWidth 16).signExtend 32

/-- A clamp to 16 bits fits. -/
theorem clampTo_fitsQ15 (v : Int) : FitsQ15 (clampTo 16 v) := clampTo_range 16 v

/-- A saturating sum at `W` = 16 fits (40_saturate_add.md R103). -/
theorem satAdd_fitsQ15 (x y : Int) : FitsQ15 (satAdd .q15 x y) :=
  satAdd_q15 x y ▸ clampTo_fitsQ15 _

/-- A saturating difference at `W` = 16 fits (R104). -/
theorem satSub_fitsQ15 (x y : Int) : FitsQ15 (satSub .q15 x y) :=
  satSub_q15 x y ▸ clampTo_fitsQ15 _

/-- The saturate of any width from 16 up, to 16 bits, fits (R100). -/
theorem ssat_fitsQ15 {n : Nat} (hn : 16 ≤ n) (v : Int) : FitsQ15 (ssat v 16 n) :=
  ssat_eq_clampTo (by decide) hn v ▸ clampTo_fitsQ15 v

/-- The output of the proportional+integral branch is realigned, so it fits (42_pi_controller.md
R143). -/
theorem piBranch_fitsQ15 (g : GainSet) (rnd : Bool) (x : Int) (c : Channel) :
    FitsQ15 (piBranch .q15 g rnd x c) :=
  ssat_fitsQ15 (n := 32) (by decide) _

/-- The raw derivative is clamped, so it fits (43_pid_controller.md R163). -/
theorem rawDerivative_fitsQ15 (g : GainSet) (x : Int) (c : Channel) :
    FitsQ15 (rawDerivative .q15 g x c) :=
  ssat_fitsQ15 (n := 32) (by decide) _

/-- The filtered derivative lies between two values that fit, so it fits (R164). -/
theorem filterDerivative_fitsQ15 (k : Nat) {df draw : Int} (hdf : FitsQ15 df) (hdraw : FitsQ15 draw) :
    FitsQ15 (filterDerivative k df draw) := by
  obtain ⟨low, high⟩ := filterDerivative_between k df draw
  unfold FitsQ15 at *
  omega

/-- A 16-bit pattern sign-extended is a sign-extended pattern. -/
theorem signExtend_signExtendedQ15 (x : BitVec 16) : SignExtendedQ15 (x.signExtend 32) := by
  have low : (x.signExtend 32).setWidth 16 = x := by
    ext i hi
    have inside : i < 32 := by omega
    simp [BitVec.getElem_signExtend, hi, inside]
  rw [SignExtendedQ15, low]

/-- A value that fits is written as a sign-extended pattern (00_scope.md R14). -/
theorem bits32_signExtendedQ15 {v : Int} (h : FitsQ15 v) : SignExtendedQ15 (bits32 v) := by
  obtain ⟨low, high⟩ := h
  have unwrapped : wrap 16 v = v := wrap_of_range (by decide) low (Int.lt_add_one_of_le high)
  rw [← unwrapped]
  exact signExtend_signExtendedQ15 (BitVec.ofInt 16 v)

/-! ## What the `.Q15` controller commands write -/

/-- Every register of `d` but MASK is as in `c` or holds a sign-extended pattern. -/
def KeptOrSignExtended (c d : Channel) : Prop :=
  ∀ r, r ≠ .mask → d.read r = c.read r ∨ SignExtendedQ15 (d.read r)

/-- A channel that nothing was written to. -/
theorem KeptOrSignExtended.refl (c : Channel) : KeptOrSignExtended c c := fun _ _ => .inl rfl

/-- One more write, of a sign-extended pattern or to MASK. -/
theorem KeptOrSignExtended.write {c d : Channel} (h : KeptOrSignExtended c d) {r : Reg} {p : Word}
    (hp : r = .mask ∨ SignExtendedQ15 p) : KeptOrSignExtended c (d.write r p) := by
  intro q hq
  rw [channel_read_write]
  split
  next same => exact .inr (hp.resolve_left (same ▸ hq))
  next => exact h q hq

/-- One more signed result, of a value that fits (R14). -/
theorem KeptOrSignExtended.wr {c d : Channel} (h : KeptOrSignExtended c d) (r : Reg) {v : Int}
    (hv : FitsQ15 v) : KeptOrSignExtended c (d.wr r v) :=
  h.write (.inr (bits32_signExtendedQ15 hv))

/-- One more register zeroed. -/
theorem KeptOrSignExtended.zero {c d : Channel} (h : KeptOrSignExtended c d) (r : Reg) :
    KeptOrSignExtended c (d.write r 0) :=
  h.write (.inr rfl)

/-- The coefficients A0 and A1 are saturated (42_pi_controller.md R140). -/
theorem KeptOrSignExtended.piCoefficients (g : GainSet) (c : Channel) :
    KeptOrSignExtended c (piCoefficients .q15 g c) :=
  ((refl c).wr _ (satAdd_fitsQ15 _ _)).wr _ (satSub_fitsQ15 _ _)

/-- The derivative coefficients are the gain as read and a saturated value (43_pid_controller.md
R160). -/
theorem KeptOrSignExtended.pidCoefficients {c d : Channel} (h : KeptOrSignExtended c d)
    (g : GainSet) : KeptOrSignExtended c (pidCoefficients .q15 g d) :=
  ((h.wr _ (signed16_range _)).wr _ (ssat_fitsQ15 (by decide) _)).wr _ (signed16_range _)

/-- PIINIT.Q15 (42_pi_controller.md R140). -/
theorem piinit_keptOrSignExtended (g : GainSet) (rst : Bool) (c : Channel) :
    KeptOrSignExtended c (piinit .q15 g rst c).1 := by
  have coefficients := KeptOrSignExtended.piCoefficients g c
  cases rst with
  | false => exact coefficients
  | true => exact (coefficients.zero .x1).zero .y1

/-- PIUPD.Q15 (R141): the sample as read and a realigned accumulator. -/
theorem piupd_keptOrSignExtended (g : GainSet) (rnd : Bool) (a : Word) (c : Channel) :
    KeptOrSignExtended c (piupd .q15 g rnd a c).1 :=
  ((KeptOrSignExtended.refl c).wr .x1 (signed16_range a)).wr .y1 (piBranch_fitsQ15 g rnd _ c)

/-- PIDINIT.Q15 (43_pid_controller.md R160). -/
theorem pidinit_keptOrSignExtended (g : GainSet) (rst : Bool) (c : Channel) :
    KeptOrSignExtended c (pidinit .q15 g rst c).1 := by
  have coefficients := (KeptOrSignExtended.piCoefficients g c).pidCoefficients g
  cases rst with
  | false => exact coefficients
  | true => exact ((((coefficients.zero .x1).zero .x2).zero .y1).zero .draw).zero .dfilt

/-- A computed PIDUPD.Q15 sample (R161): two samples as read, the saturated sum, the clamped raw
derivative and the filtered one between it and the old one. -/
theorem pidCompute_keptOrSignExtended (g : GainSet) (rnd : Bool) (dfsh : Nat) (a : Word)
    (c : Channel) : KeptOrSignExtended c (pidCompute .q15 g rnd dfsh a c).1 := by
  have raw := rawDerivative_fitsQ15 g (sW .q15 a) c
  have filtered := filterDerivative_fitsQ15 dfsh (signed16_range (c.read .dfilt)) raw
  exact (((((KeptOrSignExtended.refl c).wr .x2 (signed16_range _)).wr .x1 (signed16_range a)).wr
    .y1 (satAdd_fitsQ15 _ _)).wr .draw raw).wr .dfilt filtered

/-- PIDUPD.Q15 (R161): a held sample writes MASK only (R166). -/
theorem pidupd_keptOrSignExtended (g : GainSet) (rnd m : Bool) (dfsh : Nat) (a : Word)
    (c : Channel) : KeptOrSignExtended c (pidupd .q15 g rnd m dfsh a c).1 := by
  unfold pidupd
  split
  next => exact (KeptOrSignExtended.refl c).write (.inl rfl)
  next => exact pidCompute_keptOrSignExtended g rnd dfsh a c

/-- From the channel to the state: a controller command that keeps or sign-extends the registers of
its channel does so in the register file. -/
theorem onChannel_reg_keptOrSignExtended {f : Channel → Channel × Int}
    (hf : ∀ c, KeptOrSignExtended c (f c).1) {ch : Byte} {s t : State}
    (ht : Host.Outcome.next (onChannel ch f s) = (.next t : Result)) (n : Nat) (r : Reg)
    (hr : r ≠ .mask) : t.reg? n r = s.reg? n r ∨ ∃ v, t.reg? n r = some v ∧ SignExtendedQ15 v := by
  cases ht
  by_cases hn : n = ch.toNat
  · subst hn
    obtain ⟨-, rejected⟩ | ⟨c, hc, answered⟩ := onChannel_outcome s ch f
    · rw [rejected]
      exact .inl rfl
    · rw [answered, answered_reg, setChannel_reg hc, if_pos rfl, reg_of_chans hc]
      exact (hf c r hr).imp (congrArg some) fun extended => ⟨_, rfl, extended⟩
  · obtain ⟨-, -, -, -, others⟩ := onChannel_frame s ch f
    exact .inl (others n r hn)

/-- Settles O29, one lemma for each of the four commands. -/
theorem q15CommandsWriteSignExtendedPatterns : Obligations.Q15CommandsWriteSignExtendedPatterns := by
  intro g rst rnd m ch a s t ht
  obtain piinit | piupd | pidinit | pidupd := ht
  · exact onChannel_reg_keptOrSignExtended (piinit_keptOrSignExtended g rst) piinit
  · exact onChannel_reg_keptOrSignExtended (piupd_keptOrSignExtended g rnd a) piupd
  · exact onChannel_reg_keptOrSignExtended (pidinit_keptOrSignExtended g rst) pidinit
  · exact onChannel_reg_keptOrSignExtended (pidupd_keptOrSignExtended g rnd m _ a) pidupd

end Sys2Proof.Machine
end

section
/-! PROOFS. 20_memory.md: a read sees the last write, an instruction leaves every other channel
alone, and it depends on its own channel and DFSH alone. -/

namespace Sys2Proof.Machine

/-! ## Read after write -/

/-- An RDREG of a register that exists answers its pattern and changes nothing (20_memory.md R52). -/
theorem exec_rdreg_of_reg {s : State} {ch idx : Byte} {r : Reg} {p : Word}
    (hr : Reg.ofIndex idx = some r) (hp : s.reg? ch.toNat r = some p) :
    exec (.rdreg ch idx) s = .next (s.answered (p.setWidth 64)) := by
  obtain ⟨c, hc, rfl⟩ := Option.map_eq_some_iff.mp hp
  exact congrArg Host.Outcome.next (withRegister_of_some hc hr _)

/-- A WRREG of a register that exists replaces it in its channel and answers 0 (R53). -/
theorem exec_wrreg_of_chan {s : State} {ch idx : Byte} {c : Channel} {r : Reg}
    (hc : s.chans[ch.toNat]? = some c) (hr : Reg.ofIndex idx = some r) (a : Word) :
    exec (.wrreg ch idx a) s = .next ((setChannel ch (c.write r a) s).answered 0) :=
  congrArg Host.Outcome.next (withRegister_of_some hc hr _)

/-- Writing a register of a channel of the register file: the written pattern there, the old one in
every other register of every channel (R53, R58). -/
theorem setChannel_write_reg {s : State} {ch : Byte} {c : Channel}
    (hc : s.chans[ch.toNat]? = some c) (r : Reg) (a : Word) (n : Nat) (q : Reg) :
    (setChannel ch (c.write r a) s).reg? n q =
      if n = ch.toNat ∧ q = r then some a else s.reg? n q := by
  rw [setChannel_reg hc, channel_read_write]
  by_cases hn : n = ch.toNat
  · subst hn
    rw [reg_of_chans hc]
    by_cases hq : q = r <;> simp [hq]
  · simp [hn]

/-- Two bytes that name registers are the same exactly when they name the same one. -/
theorem ofIndex_eq_iff {idx idx' : Byte} {r r' : Reg} (hr : Reg.ofIndex idx = some r)
    (hr' : Reg.ofIndex idx' = some r') : idx' = idx ↔ r' = r := by
  constructor
  · rintro rfl
    exact Option.some.inj (hr'.symm.trans hr)
  · rintro rfl
    rw [ofIndex_eq_some_iff] at hr hr'
    exact BitVec.eq_of_toNat_eq (hr'.trans hr.symm)

/-- Settles O33: the RDREG after the WRREG answers the pattern of the register file with the one
register written. -/
theorem rdregSeesTheLastWrreg : Obligations.RdregSeesTheLastWrreg := by
  intro ch idx ch' idx' a s hch hidx hch' hidx'
  obtain ⟨c, hc⟩ := (chan_exists_iff s _).mp hch
  obtain ⟨c', hc'⟩ := (chan_exists_iff s _).mp hch'
  obtain ⟨r, hr, -⟩ := ofIndex_of_lt (Nat.lt_succ_of_le hidx)
  obtain ⟨r', hr', -⟩ := ofIndex_of_lt (Nat.lt_succ_of_le hidx')
  have old : s.reg? ch'.toNat r' = some (c'.read r') := reg_of_chans hc' r'
  have new : ((setChannel ch (c.write r a) s).answered 0).reg? ch'.toNat r' =
      some (if ch' = ch ∧ idx' = idx then a else c'.read r') := by
    rw [answered_reg, setChannel_write_reg hc, old, ← apply_ite some]
    simp only [BitVec.toNat_inj, ofIndex_eq_iff hr hr']
  refine ⟨_, _, _, exec_wrreg_of_chan hc hr a, exec_rdreg_of_reg hr' new,
    exec_rdreg_of_reg hr' old, ?_⟩
  simp only [answered_resp]
  split <;> rfl

/-! ## The frame of an instruction -/

/-- Settles O45: of the three things an instruction can do, only the replacing of its own channel
touches the register file. -/
theorem otherChannelsAreUnchanged : Obligations.OtherChannelsAreUnchanged := by
  intro i s t ht
  obtain ⟨k, -, rejected⟩ | ⟨res, answered⟩ | ⟨ch, c, c', res, named, hc, updated⟩ :=
    exec_outcome i s
  · cases rejected.symm.trans ht
    exact ⟨rfl, rfl, rfl, rfl, fun _ _ _ => rfl⟩
  · cases answered.symm.trans ht
    exact ⟨rfl, rfl, rfl, rfl, fun _ _ _ => rfl⟩
  · cases updated.symm.trans ht
    refine ⟨setChannel_nch ch c' s, rfl, rfl, rfl, fun n r other => ?_⟩
    rw [answered_reg, setChannel_reg hc, if_neg (other ch named)]

/-! ## What an instruction depends on -/

/-- Two states that hold the same response and the same channel `ch`, or both no such channel. -/
def State.AgreeAt (ch : Byte) (t₁ t₂ : State) : Prop :=
  t₁.resp = t₂.resp ∧ t₁.chans[ch.toNat]? = t₂.chans[ch.toNat]?

/-- The channel that is replaced, if it exists, is the new one afterwards. -/
theorem setChannel_chan (ch : Byte) (c : Channel) (s : State) :
    (setChannel ch c s).chans[ch.toNat]? = s.chans[ch.toNat]?.map fun _ => c :=
  List.getElem?_set_self'

section
variable {ch : Byte} {s₁ s₂ : State} (same : s₁.chans[ch.toNat]? = s₂.chans[ch.toNat]?)
include same

/-- Replacing the channel and answering depends on whether the channel exists alone. -/
theorem respond_setChannel_agreeAt (v : Int) (c : Channel) :
    State.AgreeAt ch (respond v (setChannel ch c s₁)) (respond v (setChannel ch c s₂)) :=
  ⟨rfl, by rw [respond_chans, respond_chans, setChannel_chan, setChannel_chan, same]⟩

/-- A command that uses `CH` depends on its channel alone, if what it does with the channel does. -/
theorem withChannel_agreeAt {k : Channel → State → State}
    (hk : ∀ c, State.AgreeAt ch (k c s₁) (k c s₂)) :
    State.AgreeAt ch (withChannel ch k s₁) (withChannel ch k s₂) := by
  cases hc : s₂.chans[ch.toNat]? with
  | none =>
    rw [withChannel_of_none (same.trans hc), withChannel_of_none hc]
    exact ⟨rfl, same⟩
  | some c =>
    rw [withChannel_of_some (same.trans hc), withChannel_of_some hc]
    exact hk c

/-- A controller command depends on its channel alone. -/
theorem onChannel_agreeAt (f : Channel → Channel × Int) :
    State.AgreeAt ch (onChannel ch f s₁) (onChannel ch f s₂) :=
  withChannel_agreeAt same fun c => respond_setChannel_agreeAt same (f c).2 (f c).1

/-- A register access depends on its channel alone, if what it does with the register does. -/
theorem withRegister_agreeAt (idx : Byte) {k : Channel → Reg → State → State}
    (hk : ∀ c r, State.AgreeAt ch (k c r s₁) (k c r s₂)) :
    State.AgreeAt ch (withRegister ch idx k s₁) (withRegister ch idx k s₂) := by
  refine withChannel_agreeAt same fun c => ?_
  cases Reg.ofIndex idx with
  | none => exact ⟨rfl, same⟩
  | some r => exact hk c r

end

/-- Settles O46: every instruction that names a channel is a controller command or a register
access; PIDUPD alone also reads DFSH. -/
theorem commandsReadOnlyTheirOwnChannel : Obligations.CommandsReadOnlyTheirOwnChannel := by
  intro i ch s₁ s₂ named same dfsh
  cases i with
  | piinitQ15 | piinitQ31 | piupdQ15 | piupdQ31 | pidinitQ15 | pidinitQ31 =>
    cases named
    exact ⟨_, _, rfl, rfl, onChannel_agreeAt same _⟩
  | pidupdQ15 g rnd m _ a =>
    cases named
    exact ⟨_, _, rfl, rfl, dfsh ▸ onChannel_agreeAt same (pidupd .q15 g rnd m s₁.dfsh a)⟩
  | pidupdQ31 g rnd m _ a =>
    cases named
    exact ⟨_, _, rfl, rfl, dfsh ▸ onChannel_agreeAt same (pidupd .q31 g rnd m s₁.dfsh a)⟩
  | rdreg _ idx =>
    cases named
    exact ⟨_, _, rfl, rfl, withRegister_agreeAt same idx fun _ _ => ⟨rfl, same⟩⟩
  | wrreg _ idx a =>
    cases named
    exact ⟨_, _, rfl, rfl,
      withRegister_agreeAt same idx fun c r => respond_setChannel_agreeAt same 0 (c.write r a)⟩
  | _ => cases named

end Sys2Proof.Machine
end

section
/-! PROOFS. 30_encoding.md: one characterisation of what decodes to an instruction, from which the
two round trips and the freedom of unread words follow; the opcode table as the forms of the
opcodes; and what a step does with its command. -/

namespace Sys2Proof

/-! ## What decodes to an instruction -/

/-- The opcode of an instruction (30_encoding.md R73). -/
def Instr.opcode : Instr → Opcode
  | .ssat32 .. => .ssat32
  | .ssat64 .. => .ssat64
  | .qaddQ15 .. | .qaddQ31 .. => .qadd
  | .qsubQ15 .. | .qsubQ31 .. => .qsub
  | .mulQ15 .. | .mulQ31 .. => .mul
  | .mulsatQ15 .. | .mulsatQ31 .. => .mulsat
  | .absQ15 .. | .absQ31 .. => .abs
  | .abssatQ15 .. | .abssatQ31 .. => .abssat
  | .piinitQ15 .. | .piinitQ31 .. => .piinit
  | .piupdQ15 .. | .piupdQ31 .. => .piupd
  | .pidinitQ15 .. | .pidinitQ31 .. => .pidinit
  | .pidupdQ15 .. | .pidupdQ31 .. => .pidupd
  | .adcqQ15 .. | .adcqQ31 .. => .adcq
  | .rdreg .. => .rdreg
  | .wrreg .. => .wrreg

/-- The encoder writes the byte of the instruction's opcode in `OP` (R72, R82). -/
theorem instr_header_op (i : Instr) : i.header.op = i.opcode.byte := by
  cases i <;> rfl

/-- The encoder leaves every field zero that must be zero for the opcode (R74, R82). -/
theorem instr_header_fits (i : Instr) : i.header.fits i.opcode = true := by
  cases i <;> rfl

/-- The operand words that the instruction reads are the command's (R74). -/
def Instr.ReadsFrom (i : Instr) (k : Command) : Prop :=
  (i.readsA = true → (encode i).a = k.a) ∧ (i.readsB = true → (encode i).b = k.b)
    ∧ (i.readsC = true → (encode i).c = k.c)

/-- An instruction reads its operands from its own encoding. -/
theorem instr_readsFrom_encode (i : Instr) : i.ReadsFrom (encode i) :=
  ⟨fun _ => rfl, fun _ => rfl, fun _ => rfl⟩

/-- From the header of a well-formed instruction, on a command that has the operands it reads, its
opcode gives it back. -/
theorem opcode_instr_header {i : Instr} {k : Command} (hwf : i.wf = true) (hr : i.ReadsFrom k) :
    i.opcode.instr i.header k = .ok i := by
  obtain ⟨ha, hb, hc⟩ := hr
  cases i with
  | adcqQ15 sh a b c | adcqQ31 sh a b c =>
    have shift := of_decide_eq_true hwf
    cases ha rfl; cases hb rfl; cases hc rfl
    exact if_pos shift
  | ssat64 | qaddQ15 | qaddQ31 | qsubQ15 | qsubQ31 | mulQ15 | mulQ31 | mulsatQ15 | mulsatQ31 =>
    cases ha rfl; cases hb rfl
    rfl
  | ssat32 | absQ15 | absQ31 | abssatQ15 | abssatQ31 | wrreg =>
    cases ha rfl
    rfl
  | piupdQ15 g | piupdQ31 g | pidupdQ15 g | pidupdQ31 g =>
    cases ha rfl
    cases g <;> rfl
  | piinitQ15 g | piinitQ31 g | pidinitQ15 g | pidinitQ31 g => cases g <;> rfl
  | rdreg => rfl

/-- The check of the must-be-zero fields, field by field (R74). -/
theorem header_fits_iff (h : Header) (op : Opcode) : h.fits op = true ↔
    (op.usesW = false → h.w = false) ∧ (op.usesSel = false → h.sel = false)
      ∧ (op.usesRnd = false → h.rnd = false) ∧ (op.usesRst = false → h.rst = false)
      ∧ (op.usesM = false → h.m = false) ∧ h.zero = 0
      ∧ (op.usesCh = false → h.ch = 0) ∧ (op.usesImm = false → h.imm = 0) := by
  have imp : ∀ (b : Bool) (P : Prop), (b = true ∨ P) ↔ (b = false → P) := by
    intro b P; cases b <;> simp
  simp only [Header.fits, Bool.and_eq_true, Bool.or_eq_true, Bool.not_eq_true', decide_eq_true_eq,
    imp, and_assoc]

/-- ADCQ alone checks an operand, its shift against the word size (R75 (c)). -/
theorem adcq_instr_eq_ok_iff (h : Header) (k : Command) (i : Instr) :
    Opcode.adcq.instr h k = .ok i ↔
      h.w = false ∧ h.imm.toNat < 16 ∧ .adcqQ15 h.imm k.a k.b k.c = i
        ∨ h.w = true ∧ h.imm.toNat < 32 ∧ .adcqQ31 h.imm k.a k.b k.c = i := by
  cases hw : h.w <;> simp only [Opcode.instr, hw] <;> split <;> simp [*]

/-- The instruction that an opcode gives is well formed and reads the command's operands. -/
theorem opcode_instr_reads {op : Opcode} {h : Header} {k : Command} {i : Instr}
    (hi : op.instr h k = .ok i) : i.wf = true ∧ i.ReadsFrom k := by
  cases op with
  | adcq =>
    obtain ⟨-, shift, rfl⟩ | ⟨-, shift, rfl⟩ := (adcq_instr_eq_ok_iff h k i).mp hi
    all_goals exact ⟨decide_eq_true shift, fun _ => rfl, fun _ => rfl, fun _ => rfl⟩
  | _ =>
    cases hw : h.w
    all_goals
      simp only [Opcode.instr, hw] at hi
      cases hi
      simp [Instr.wf, Instr.ReadsFrom, Instr.readsA, Instr.readsB, Instr.readsC, encode,
        Instr.operands]

/-- The instruction that an opcode gives has the header it was given, when that is one of the
opcode: a field the instruction does not carry is one that must be zero. -/
theorem opcode_instr_keeps_header {op : Opcode} {h : Header} {k : Command} {i : Instr}
    (hop : h.op = op.byte) (hf : h.fits op = true) (hi : op.instr h k = .ok i) : i.header = h := by
  obtain ⟨b, w, sel, rnd, rst, m, zero, ch, imm⟩ := h
  obtain ⟨hw, hsel, hrnd, hrst, hm, rfl, hch, himm⟩ := (header_fits_iff _ _).mp hf
  obtain rfl : b = op.byte := hop
  cases op with
  | ssat32 | ssat64 =>
    cases hw rfl; cases hsel rfl; cases hrnd rfl; cases hrst rfl; cases hm rfl; cases hch rfl
    cases hi; rfl
  | qadd | qsub | mul | mulsat | abs | abssat =>
    cases hsel rfl; cases hrnd rfl; cases hrst rfl; cases hm rfl; cases hch rfl; cases himm rfl
    cases w <;> cases hi <;> rfl
  | piinit | pidinit =>
    cases hrnd rfl; cases hm rfl; cases himm rfl
    cases w <;> cases hi <;> cases sel <;> rfl
  | piupd =>
    cases hrst rfl; cases hm rfl; cases himm rfl
    cases w <;> cases hi <;> cases sel <;> rfl
  | pidupd =>
    cases hrst rfl; cases himm rfl
    cases w <;> cases hi <;> cases sel <;> rfl
  | adcq =>
    cases hsel rfl; cases hrnd rfl; cases hrst rfl; cases hm rfl; cases hch rfl
    obtain ⟨rfl, -, rfl⟩ | ⟨rfl, -, rfl⟩ := (adcq_instr_eq_ok_iff _ k i).mp hi <;> rfl
  | rdreg | wrreg =>
    cases hw rfl; cases hsel rfl; cases hrnd rfl; cases hrst rfl; cases hm rfl
    cases hi; rfl

/-- What decodes to an instruction: a command with its header that has the operands it reads, and
only if the instruction is well formed. -/
theorem decode_eq_ok_iff_encode (k : Command) (i : Instr) :
    decode k = .ok i ↔ i.wf = true ∧ (encode i).hdr = k.hdr ∧ i.ReadsFrom k := by
  have fields : (encode i).hdr = k.hdr ↔ Header.ofWord k.hdr = i.header :=
    eq_comm.trans (header_eq_toWord_iff k.hdr i.header)
  rw [decode_eq_ok_iff, fields]
  constructor
  · rintro ⟨op, hop, hf, hi⟩
    obtain ⟨hwf, hr⟩ := opcode_instr_reads hi
    exact ⟨hwf, (opcode_instr_keeps_header hop hf hi).symm, hr⟩
  · rintro ⟨hwf, hh, hr⟩
    rw [hh]
    exact ⟨i.opcode, instr_header_op i, instr_header_fits i, opcode_instr_header hwf hr⟩

/-! ## The round trips -/

/-- Settles O1: the encoding has the instruction's header and the operands it reads. -/
theorem decodeOfEncodeIsIdentity : Obligations.DecodeOfEncodeIsIdentity :=
  fun i hwf => (decode_eq_ok_iff_encode _ i).mpr ⟨hwf, rfl, instr_readsFrom_encode i⟩

/-- Settles O2, the other direction of the same characterisation. -/
theorem decodedInstructionKeepsHeaderAndReadOperands :
    Obligations.DecodedInstructionKeepsHeaderAndReadOperands :=
  fun k i => (decode_eq_ok_iff_encode k i).mp

/-- Settles O4: the ten words of R72, evaluated. -/
theorem sampleWordsDecode : Obligations.SampleWordsDecode := by
  unfold Obligations.SampleWordsDecode
  decide

/-! ## The opcode table -/

/-- The 26 forms, an opcode and a word size each, in the order of spec/opcode_table.json. -/
def opcodeForms : List (Opcode × Bool) :=
  [(.ssat32, false), (.ssat64, false), (.qadd, false), (.qadd, true), (.qsub, false), (.qsub, true),
    (.mul, false), (.mul, true), (.mulsat, false), (.mulsat, true), (.abs, false), (.abs, true),
    (.abssat, false), (.abssat, true), (.piinit, false), (.piinit, true), (.piupd, false),
    (.piupd, true), (.pidinit, false), (.pidinit, true), (.pidupd, false), (.pidupd, true),
    (.adcq, false), (.adcq, true), (.rdreg, false), (.wrreg, false)]

/-- The fields that an opcode's rows compare: `OP`, `W`, and those that must be zero (R74). -/
def Opcode.maskHeader (op : Opcode) : Header where
  op := 0xFF
  w := true
  sel := !op.usesSel
  rnd := !op.usesRnd
  rst := !op.usesRst
  m := !op.usesM
  zero := 7
  ch := if op.usesCh then 0 else 0xFF
  imm := if op.usesImm then 0 else 0xFF

/-- The bound on IMM as a shift (R75 (c)), 256 where there is none. -/
def Opcode.shiftBound (op : Opcode) (w : Bool) : Nat :=
  match op, w with
  | .adcq, false => 16
  | .adcq, true => 32
  | _, _ => 256

/-- The row of a form. -/
def formRow (f : Opcode × Bool) : Machine.OpcodeRow where
  mask := f.1.maskHeader.toWord
  value := { Header.ofOpcode f.1 with w := f.2 }.toWord
  shiftBound := f.1.shiftBound f.2
  usesCh := f.1.usesCh
  usesReg := f.1.usesCh && f.1.usesImm

/-- The opcode table holds the row of each form. -/
theorem opcodeTable_eq_map : Machine.opcodeTable = opcodeForms.map formRow := by
  decide

/-- An opcode is a form with every word size it has: `W` = 1 only where `W` is used (R74). -/
theorem mem_opcodeForms_iff (op : Opcode) (w : Bool) :
    (op, w) ∈ opcodeForms ↔ (op.usesW = false → w = false) := by
  cases op <;> cases w <;> decide

/-- A header matches the row of a form exactly when it has that opcode and word size and no
must-be-zero field set. -/
theorem formRow_matches_iff (hdr : Word) {op : Opcode} {w : Bool} (hf : (op, w) ∈ opcodeForms) :
    hdr &&& (formRow (op, w)).mask = (formRow (op, w)).value ↔
      (Header.ofWord hdr).op = op.byte ∧ (Header.ofWord hdr).w = w
        ∧ (Header.ofWord hdr).fits op = true := by
  have size := (mem_opcodeForms_iff op w).mp hf
  have all8 : ∀ x : Byte, x &&& 0xFF = x := fun x => BitVec.and_allOnes
  have all3 : ∀ x : BitVec 3, x &&& 7 = x := fun x => BitVec.and_allOnes
  have masked : ∀ (x : Byte) (u : Bool),
      x &&& (if u then 0 else 0xFF) = 0 ↔ (u = false → x = 0) := by
    intro x u
    cases u with
    | false => rw [if_neg Bool.false_ne_true, all8]; simp
    | true => simp
  have flag : ∀ x u : Bool, (x && !u) = false ↔ (u = false → x = false) := by decide
  rw [formRow, header_eq_toWord_iff, header_ofWord_and, header_ofWord_toWord, header_fits_iff]
  simp only [Opcode.maskHeader, Header.ofOpcode, Header.mk.injEq, all8, all3, masked, flag,
    Bool.and_true]
  constructor
  · rintro ⟨hop, rfl, rest⟩
    exact ⟨hop, rfl, size, rest⟩
  · rintro ⟨hop, rfl, -, rest⟩
    exact ⟨hop, rfl, rest⟩

/-- An opcode gives an instruction exactly when IMM is below its bound as a shift (R75 (c)). -/
theorem opcode_instr_isOk_iff (op : Opcode) (h : Header) (k : Command) :
    (∃ i, op.instr h k = .ok i) ↔ h.imm.toNat < op.shiftBound h.w := by
  have small : h.imm.toNat < 256 := h.imm.isLt
  cases op with
  | adcq => cases hw : h.w <;> simp [adcq_instr_eq_ok_iff, Opcode.shiftBound, hw]
  | _ => cases hw : h.w <;> simp [Opcode.instr, Opcode.shiftBound, hw, small]

/-- A command decodes exactly when the row of a form accepts its header. -/
theorem decode_isOk_iff (k : Command) :
    (∃ i, decode k = .ok i) ↔ ∃ f ∈ opcodeForms, (formRow f).accepts k.hdr = true := by
  simp only [decode_eq_ok_iff, Machine.OpcodeRow.accepts, Bool.and_eq_true, decide_eq_true_eq]
  constructor
  · rintro ⟨i, op, hop, hf, hi⟩
    have form : (op, (Header.ofWord k.hdr).w) ∈ opcodeForms :=
      (mem_opcodeForms_iff op _).mpr ((header_fits_iff _ op).mp hf).1
    exact ⟨_, form, (formRow_matches_iff _ form).mpr ⟨hop, rfl, hf⟩,
      (opcode_instr_isOk_iff op _ k).mp ⟨i, hi⟩⟩
  · rintro ⟨⟨op, w⟩, form, matched, bound⟩
    obtain ⟨hop, rfl, hf⟩ := (formRow_matches_iff _ form).mp matched
    obtain ⟨i, hi⟩ := (opcode_instr_isOk_iff op (Header.ofWord k.hdr) k).mpr bound
    exact ⟨i, op, hop, hf, hi⟩

/-- Two forms whose rows match one header are the same: `OP` names the opcode, `W` the word size. -/
theorem form_unique {hdr : Word} {f g : Opcode × Bool} (hf : f ∈ opcodeForms)
    (hg : g ∈ opcodeForms) (mf : hdr &&& (formRow f).mask = (formRow f).value)
    (mg : hdr &&& (formRow g).mask = (formRow g).value) : f = g := by
  obtain ⟨fop, fw, -⟩ := (formRow_matches_iff hdr hf).mp mf
  obtain ⟨gop, gw, -⟩ := (formRow_matches_iff hdr hg).mp mg
  have same := (opcode_ofByte_byte f.1).symm.trans
    ((congrArg Opcode.ofByte (fop.symm.trans gop)).trans (opcode_ofByte_byte g.1))
  exact Prod.ext (Option.some.inj same) (fw.symm.trans gw)

/-- Settles O3, for the rows as those of the forms. -/
theorem decodeAcceptsExactlyTheOpcodeTable : Obligations.DecodeAcceptsExactlyTheOpcodeTable := by
  have distinct : opcodeForms.Nodup := by decide
  refine ⟨fun k => ?_, fun hdr => ?_⟩
  · simp only [decode_isOk_iff, opcodeTable_eq_map, List.mem_map, exists_exists_and_eq_and]
  · rw [opcodeTable_eq_map, List.pairwise_map]
    exact distinct.imp_of_mem fun hf hg ne both => ne (form_unique hf hg both.1 both.2)

end Sys2Proof

namespace Sys2Proof.Machine

/-! ## Bits 31:16 of `.Q15` operands -/

/-- The signed view of a `.Q15` operand ignores bits 31:16 (00_scope.md R13). -/
theorem sW_q15_lowHalf (x : Word) : sW .q15 (lowHalf x) = sW .q15 x := by
  simp [sW, lowHalf]

/-- The unsigned view of a `.Q15` operand ignores bits 31:16 (R13). -/
theorem uW_q15_lowHalf (x : Word) : uW .q15 (lowHalf x) = uW .q15 x := by
  simp [uW, lowHalf]

/-- No `.Q15` meaning depends on bits 31:16 of its operands: each reads them through the views. -/
theorem exec_lowOperands (i : Instr) (s : State) : exec i.lowOperands s = exec i s := by
  cases i with
  | qaddQ15 a b => simp only [Instr.lowOperands, exec, execQaddQ15, qadd, sW_q15_lowHalf]
  | qsubQ15 a b => simp only [Instr.lowOperands, exec, execQsubQ15, qsub, sW_q15_lowHalf]
  | mulQ15 a b => simp only [Instr.lowOperands, exec, execMulQ15, mul, sW_q15_lowHalf]
  | mulsatQ15 a b => simp only [Instr.lowOperands, exec, execMulsatQ15, mulsat, sW_q15_lowHalf]
  | absQ15 a => simp only [Instr.lowOperands, exec, execAbsQ15, sW_q15_lowHalf]
  | abssatQ15 a => simp only [Instr.lowOperands, exec, execAbssatQ15, sW_q15_lowHalf]
  | piupdQ15 g rnd ch a =>
    have same : piupd .q15 g rnd (lowHalf a) = piupd .q15 g rnd a :=
      funext fun c => by simp only [piupd, sW_q15_lowHalf]
    simp only [Instr.lowOperands, exec, execPiupdQ15, same]
  | pidupdQ15 g rnd m ch a =>
    have same : pidupd .q15 g rnd m s.dfsh (lowHalf a) = pidupd .q15 g rnd m s.dfsh a :=
      funext fun c => by simp only [pidupd, pidCompute, sW_q15_lowHalf]
    simp only [Instr.lowOperands, exec, execPidupdQ15, same]
  | adcqQ15 sh a b c =>
    simp only [Instr.lowOperands, exec, execAdcqQ15, adcq, adcConvert, sW_q15_lowHalf,
      uW_q15_lowHalf]
  | _ => rfl

/-- Settles O5: what decodes to an instruction is fixed by its header and the words it reads. -/
theorem unusedOperandBitsAreIgnored : Obligations.UnusedOperandBitsAreIgnored := by
  refine ⟨fun k l i hk hdr ha hb hc => ?_, exec_lowOperands⟩
  obtain ⟨hwf, hh, ra, rb, rc⟩ := (decode_eq_ok_iff_encode k i).mp hk
  exact (decode_eq_ok_iff_encode l i).mpr ⟨hwf, hh.trans hdr.symm,
    fun h => (ra h).trans (ha h).symm, fun h => (rb h).trans (hb h).symm,
    fun h => (rc h).trans (hc h).symm⟩

/-! ## What a step does with its command -/

/-- Settles O36: the command is taken, and it runs its instruction. -/
theorem stepRunsTheDecodedInstruction : Obligations.StepRunsTheDecodedInstruction :=
  fun _ _ _ _ hin hk _ => (step_of_command hin).trans (runCommand_of_ok hk _)

/-- Settles O37: the command is taken, and it is rejected. -/
theorem stepRejectsAnIllegalCommand : Obligations.StepRejectsAnIllegalCommand :=
  fun _ _ _ _ hin hk => (step_of_command hin).trans (runCommand_of_error hk _)

/-- A table word is the instruction that the command of its low bits decodes to (log 11). -/
theorem decodeTableWord_eq_some_iff (nbits w : Nat) (i : Instr) :
    decodeTableWord nbits w = some i ↔ decode (Command.ofBits (w % 2 ^ nbits)) = .ok i := by
  unfold decodeTableWord
  split <;> simp [*]

/-- Settles O42: the placed command is next at the port, in front of what was waiting. -/
theorem placedWordIsTheNextInstruction : Obligations.PlacedWordIsTheNextInstruction := by
  intro nbits w i s hw
  have decodes := (decodeTableWord_eq_some_iff nbits w i).mp hw
  have placed : (s.withFetchWord nbits w).inbox =
      .command (Command.ofBits (w % 2 ^ nbits)) :: s.inbox := present_inbox _ s
  exact (step_of_command placed).trans (runCommand_of_ok decodes s)

/-- A command, legal or not, keeps the parameters, what is still to be presented and the count of
resets, and is answered (30_encoding.md R70, R77). -/
theorem runCommand_frame {k : Command} {s t : State} (h : runCommand k s = .next t) :
    t.nch = s.nch ∧ t.dfsh = s.dfsh ∧ t.inbox = s.inbox ∧ t.resets = s.resets
      ∧ t.resp.isSome = true := by
  obtain ⟨u, r, hu, -, hr, -⟩ := runCommand_answers_legally k s
  cases hu.symm.trans h
  have answered : t.resp.isSome = true := Option.isSome_of_eq_some hr
  cases hk : decode k with
  | ok i =>
    rw [runCommand_of_ok hk] at h
    obtain ⟨nch, dfsh, inbox, resets, -⟩ := otherChannelsAreUnchanged i s t h
    exact ⟨nch, dfsh, inbox, resets, answered⟩
  | error e =>
    cases (runCommand_of_error hk s).symm.trans h
    exact ⟨rfl, rfl, rfl, rfl, rfl⟩

/-- Settles O38, by cases on what is next at the port. -/
theorem everyStepAnswersANextState : Obligations.EveryStepAnswersANextState := by
  intro s
  match hin : s.inbox with
  | [] => exact ⟨_, step_of_empty hin⟩
  | .reset :: rest => exact ⟨_, step_of_reset hin⟩
  | .command k :: rest =>
    obtain ⟨t, -, ht, -⟩ := runCommand_answers_legally k { s with inbox := rest }
    exact ⟨t, (step_of_command hin).trans ht⟩

/-- Settles O39, by cases on what is next at the port. -/
theorem everyStepTakesOneInputAndKeepsTheParameters :
    Obligations.EveryStepTakesOneInputAndKeepsTheParameters := by
  intro s t hstep
  match hin : s.inbox with
  | [] =>
    cases (step_of_empty hin).symm.trans hstep
    simp [State.nch, hin]
  | .reset :: rest =>
    cases (step_of_reset hin).symm.trans hstep
    simp
  | .command k :: rest =>
    obtain ⟨nch, dfsh, inbox, resets, answered⟩ :=
      runCommand_frame ((step_of_command hin).symm.trans hstep)
    simp [nch, dfsh, inbox, resets, answered]

end Sys2Proof.Machine
end

section
/-! PROOFS. 40_saturate_add.md: `ssat` is the exact clamp with its laws, and SSAT32, SSAT64, QADD and
QSUB answer it. The encoding of an instruction is said here once, as the commands that decode to it. -/

namespace Sys2Proof

/-! ## Commands that decode to a given instruction -/

/-- The commands that decode to a well-formed instruction: its header, the operand words it reads,
and anything in the words it does not read (30_encoding.md R76, R82). -/
theorem decode_eq_ok_iff_command {i : Instr} {hdr : Word} (hwf : i.wf = true)
    (hhdr : (encode i).hdr = hdr) (k : Command) :
    decode k = .ok i ↔
      k = { hdr := hdr
            a := if i.readsA then (encode i).a else k.a
            b := if i.readsB then (encode i).b else k.b
            c := if i.readsC then (encode i).c else k.c } := by
  have word : ∀ (reads : Bool) (x y : Word),
      (y = if reads then x else y) ↔ (reads = true → x = y) := by
    intro reads x y
    cases reads <;> simp [eq_comm]
  subst hhdr
  rw [decode_eq_ok_iff_encode, Instr.ReadsFrom]
  obtain ⟨hdr, a, b, c⟩ := k
  simp only [Command.mk.injEq, word, hwf, true_and, eq_comm (a := hdr)]

end Sys2Proof

namespace Sys2Proof.Machine

/-! ## The laws of `ssat` -/

/-- `ssat` for every `bits`: the clamp in [1, N], the identity outside (40_saturate_add.md R100). -/
theorem ssat_eq_ite (v : Int) (bits n : Nat) :
    ssat v bits n = if 1 ≤ bits ∧ bits ≤ n then clampTo bits v else v := by
  split
  next inside => exact ssat_eq_clampTo inside.1 inside.2 v
  next outside => exact ssat_of_outside (by omega) v

/-- A clamped value is in range, so clamping it again leaves it alone. -/
theorem clampTo_idempotent (n : Nat) (v : Int) : clampTo n (clampTo n v) = clampTo n v :=
  clampTo_of_range (clampTo_range n v).1 (clampTo_range n v).2

/-- The clamp is monotone. -/
theorem clampTo_mono (n : Nat) {v u : Int} (h : v ≤ u) : clampTo n v ≤ clampTo n u :=
  max_le_max_left _ (min_le_min_left _ h)

/-- The clamp to `n` bits leaves the signed reading of an `n`-bit pattern alone. -/
theorem clampTo_toInt {n : Nat} (x : BitVec n) : clampTo n x.toInt = x.toInt :=
  clampTo_of_range (BitVec.le_toInt x) (Int.le_sub_one_of_lt BitVec.toInt_lt)

/-- The clamp to one bit answers the sign: -1 or 0. -/
theorem clampTo_one (v : Int) : clampTo 1 v = if v < 0 then -1 else 0 := by
  simp only [clampTo]
  split <;> omega

/-- Saturating twice is saturating once, for every `bits` (R100). -/
theorem ssat_idempotent (v : Int) (bits n : Nat) : ssat (ssat v bits n) bits n = ssat v bits n := by
  simp only [ssat_eq_ite]
  split
  next => exact clampTo_idempotent bits v
  next => rfl

/-- `ssat` is monotone, for every `bits` (R100). -/
theorem ssat_mono {v u : Int} (h : v ≤ u) (bits n : Nat) : ssat v bits n ≤ ssat u bits n := by
  simp only [ssat_eq_ite]
  split
  next => exact clampTo_mono bits h
  next => exact h

/-- Settles O7: `ssat` is the clamp or the identity, and each law is one of the clamp. -/
theorem ssatIsTheExactClamp : Obligations.SsatIsTheExactClamp := by
  intro n width
  have pos : 1 ≤ n := by omega
  refine ⟨fun v _ low high => ssat_eq_clampTo low high v, fun v _ h => ssat_of_outside h v,
    fun v bits => ssat_idempotent v bits n, fun _ _ bits h => ssat_mono h bits n, fun x => ?_,
    fun v => ?_⟩
  · exact (ssat_eq_clampTo pos le_rfl _).trans (clampTo_toInt x)
  · exact (ssat_eq_clampTo le_rfl pos v).trans (clampTo_one v)

/-! ## SSAT32 and SSAT64 -/

/-- The header of SSAT32 has `OP` 0x01 and `bits` in IMM, every other field zero (R101). -/
theorem ssat32_hdr (bits : Byte) (a : Word) : (encode (.ssat32 bits a)).hdr =
    headerWord 0x01000000 false false false false 0 bits :=
  (headerWord_eq_toWord 0x01 false false false false false 0 bits).symm

/-- The header of SSAT64 has `OP` 0x02 and `bits` in IMM, every other field zero (R102). -/
theorem ssat64_hdr (bits : Byte) (a b : Word) : (encode (.ssat64 bits a b)).hdr =
    headerWord 0x02000000 false false false false 0 bits :=
  (headerWord_eq_toWord 0x02 false false false false false 0 bits).symm

/-- Settles O8: the meaning is one `respond` of `ssat` on the word. -/
theorem ssat32ClampsTheWord : Obligations.Ssat32ClampsTheWord := by
  refine ⟨fun k bits a => decode_eq_ok_iff_command rfl (ssat32_hdr bits a) k, fun bits a s => ?_⟩
  rw [← ssat_eq_ite]
  exact congrArg Host.Outcome.next (respond_eq_answered _ s)

/-- Settles O9: the meaning is one `respond` of `ssat` on the double word, whose pattern is the
double word itself where `ssat` is the identity. -/
theorem ssat64ClampsTheDoubleWord : Obligations.Ssat64ClampsTheDoubleWord := by
  refine ⟨fun k bits a b => decode_eq_ok_iff_command rfl (ssat64_hdr bits a b) k,
    fun bits a b s => ?_⟩
  have pattern : BitVec.ofInt 64 (ssat (b ++ a).toInt bits.toNat 64) =
      if 1 ≤ bits.toNat ∧ bits.toNat ≤ 64 then .ofInt 64 (clampTo bits.toNat (b ++ a).toInt)
      else b ++ a := by
    rw [ssat_eq_ite, apply_ite (BitVec.ofInt 64), BitVec.ofInt_toInt]
  rw [← pattern]
  exact congrArg Host.Outcome.next (respond_eq_answered _ s)

/-! ## QADD and QSUB -/

/-- The signed view of an operand is the signed reading of its low `W` bits (00_scope.md R13). -/
theorem sW_eq_signed (w : WordSize) (x : Word) : sW w x = signed (bitsOf w) x := by
  cases w with
  | q15 => exact sW_q15 x
  | q31 => exact sW_q31 x

/-- The `ssat` of QADD and QSUB has `bits` = `W` inside [1, 64], so it is the clamp (R103, R104). -/
theorem ssat_bitsOf (w : WordSize) (v : Int) : ssat v (bitsOf w) 64 = clampTo (bitsOf w) v := by
  have inside : 1 ≤ bitsOf w ∧ bitsOf w ≤ 64 := by cases w <;> decide
  exact ssat_eq_clampTo inside.1 inside.2 v

/-- The header of QADD.Q15 has `OP` 0x10, every other field zero (R103). -/
theorem qaddQ15_hdr (a b : Word) : (encode (.qaddQ15 a b)).hdr = 0x10000000 :=
  ((header_eq_toWord_iff _ (Header.ofOpcode .qadd)).mpr (by decide)).symm

/-- The header of QADD.Q31 has `OP` 0x10 and `W` set, every other field zero (R103). -/
theorem qaddQ31_hdr (a b : Word) : (encode (.qaddQ31 a b)).hdr = 0x10800000 :=
  ((header_eq_toWord_iff _ { Header.ofOpcode .qadd with w := true }).mpr (by decide)).symm

/-- QADD answers the exact sum of its two signed readings, clamped, and changes nothing else (R103). -/
theorem qadd_eq_answered (w : WordSize) (a b : Word) (s : State) : qadd w a b s =
    s.answered (.ofInt 64 (clampTo (bitsOf w) (signed (bitsOf w) a + signed (bitsOf w) b))) := by
  rw [qadd, respond_eq_answered, satAdd, ssat_bitsOf, sW_eq_signed, sW_eq_signed]

/-- The header of QSUB.Q15 has `OP` 0x11, every other field zero (R104). -/
theorem qsubQ15_hdr (a b : Word) : (encode (.qsubQ15 a b)).hdr = 0x11000000 :=
  ((header_eq_toWord_iff _ (Header.ofOpcode .qsub)).mpr (by decide)).symm

/-- The header of QSUB.Q31 has `OP` 0x11 and `W` set, every other field zero (R104). -/
theorem qsubQ31_hdr (a b : Word) : (encode (.qsubQ31 a b)).hdr = 0x11800000 :=
  ((header_eq_toWord_iff _ { Header.ofOpcode .qsub with w := true }).mpr (by decide)).symm

/-- QSUB answers the exact difference of its two signed readings, clamped, and changes nothing else
(R104). -/
theorem qsub_eq_answered (w : WordSize) (a b : Word) (s : State) : qsub w a b s =
    s.answered (.ofInt 64 (clampTo (bitsOf w) (signed (bitsOf w) a - signed (bitsOf w) b))) := by
  rw [qsub, respond_eq_answered, satSub, ssat_bitsOf, sW_eq_signed, sW_eq_signed]

/-- Settles O10: both forms are `qadd`, at their word sizes. -/
theorem qaddClampsTheExactSum : Obligations.QaddClampsTheExactSum :=
  ⟨fun k a b => decode_eq_ok_iff_command rfl (qaddQ15_hdr a b) k,
    fun k a b => decode_eq_ok_iff_command rfl (qaddQ31_hdr a b) k,
    fun a b s => congrArg Host.Outcome.next (qadd_eq_answered .q15 a b s),
    fun a b s => congrArg Host.Outcome.next (qadd_eq_answered .q31 a b s)⟩

/-- Settles O11: both forms are `qsub`, at their word sizes. -/
theorem qsubClampsTheExactDifference : Obligations.QsubClampsTheExactDifference :=
  ⟨fun k a b => decode_eq_ok_iff_command rfl (qsubQ15_hdr a b) k,
    fun k a b => decode_eq_ok_iff_command rfl (qsubQ31_hdr a b) k,
    fun a b s => congrArg Host.Outcome.next (qsub_eq_answered .q15 a b s),
    fun a b s => congrArg Host.Outcome.next (qsub_eq_answered .q31 a b s)⟩

end Sys2Proof.Machine
end

section
/-! PROOFS. 41_multiply_abs.md: MUL, MULSAT, ABS and ABSSAT. The only value their wraps change is
2^(W-1), which comes from the most-negative operands alone. -/

namespace Sys2Proof

/-- The commands that decode to a well-formed instruction, its header given by its fields
(30_encoding.md R76, R82). -/
theorem decode_eq_ok_iff_fields {i : Instr} {hdr : Word} (hwf : i.wf = true)
    (fields : Header.ofWord hdr = i.header) (k : Command) :
    decode k = .ok i ↔
      k = { hdr := hdr
            a := if i.readsA then (encode i).a else k.a
            b := if i.readsB then (encode i).b else k.b
            c := if i.readsC then (encode i).c else k.c } :=
  decode_eq_ok_iff_command hwf ((header_eq_toWord_iff hdr i.header).mpr fields).symm k

end Sys2Proof

namespace Sys2Proof.Machine

/-! ## The value that wraps -/

/-- In [-2^(n-1), 2^(n-1)] the only value that `wrap` changes is 2^(n-1) (00_scope.md R12). -/
theorem wrap_of_le_half {n : Nat} (hn : 1 ≤ n) {v : Int} (low : -(2 ^ (n - 1)) ≤ v)
    (high : v ≤ 2 ^ (n - 1)) : wrap n v = if v = 2 ^ (n - 1) then -(2 ^ (n - 1)) else v := by
  split
  next top =>
    have pos : (0 : Int) < 2 ^ (n - 1) := by positivity
    have period : v - -(2 ^ (n - 1)) = 2 ^ n := by
      obtain ⟨m, rfl⟩ : ∃ m, n = m + 1 := ⟨n - 1, by omega⟩
      rw [top, Nat.add_sub_cancel, pow_succ]
      ring
    exact (wrap_eq_iff hn v _).mpr ⟨le_rfl, by omega, period ▸ dvd_rfl⟩
  next below => exact wrap_of_range hn low (lt_of_le_of_ne high below)

/-- A word size has at least two bits. -/
theorem two_le_bitsOf (w : WordSize) : 2 ≤ bitsOf w := by cases w <;> decide

/-! ## MUL and MULSAT -/

/-- The floor of a product of two `W`-bit values over `m` = 2^(W-1) is a `W`-bit value, but `m` for
the pair of most-negative values (41_multiply_abs.md R120). -/
theorem product_ediv_range {m x y : Int} (pos : 0 < m) (hx : -m ≤ x ∧ x < m)
    (hy : -m ≤ y ∧ y < m) :
    -m ≤ x * y / m ∧ x * y / m ≤ m ∧ (x * y / m = m ↔ x = -m ∧ y = -m) := by
  obtain ⟨low, high, inner⟩ := product_range hx hy
  refine ⟨(Int.le_ediv_iff_mul_le pos).mpr (by nlinarith),
    Int.ediv_le_of_le_mul pos high, fun top => ?_, fun ⟨hxm, hym⟩ => ?_⟩
  · by_contra other
    have below : x * y / m ≤ m - 1 := Int.ediv_le_of_le_mul pos (by linarith [inner other])
    omega
  · rw [hxm, hym, neg_mul_neg, Int.mul_ediv_cancel _ pos.ne']

/-- `mul` is the floor of the product over 2^(W-1), and wraps on one pair (R120). -/
theorem mulWrap_eq_ite (w : WordSize) {x y : Int}
    (hx : -(2 ^ (bitsOf w - 1)) ≤ x ∧ x < 2 ^ (bitsOf w - 1))
    (hy : -(2 ^ (bitsOf w - 1)) ≤ y ∧ y < 2 ^ (bitsOf w - 1)) :
    mulWrap w x y =
      if x = -(2 ^ (bitsOf w - 1)) ∧ y = -(2 ^ (bitsOf w - 1)) then -(2 ^ (bitsOf w - 1))
      else x * y / 2 ^ (bitsOf w - 1) := by
  obtain ⟨low, high, top⟩ := product_ediv_range (by positivity) hx hy
  rw [mulWrap, asr, wrap_of_le_half (one_le_two.trans (two_le_bitsOf w)) low high]
  simp only [top]

/-- `mulsat` is twice the floor of the product over 2^W, and clamps on one pair (R121). With
`p` = 2^(W-2) the clamp is to [-p, p - 1], and the product is below 4p² but for that pair. -/
theorem mulSat_eq_refMulsat (w : WordSize) {x y : Int}
    (hx : -(2 ^ (bitsOf w - 1)) ≤ x ∧ x < 2 ^ (bitsOf w - 1))
    (hy : -(2 ^ (bitsOf w - 1)) ≤ y ∧ y < 2 ^ (bitsOf w - 1)) :
    mulSat w x y = refMulsat (bitsOf w) x y := by
  obtain ⟨n, hn⟩ : ∃ n, bitsOf w = n + 2 := ⟨bitsOf w - 2, by have := two_le_bitsOf w; omega⟩
  have half : (2 : Int) ^ (n + 2 - 1) = 2 * 2 ^ n := pow_succ' 2 n
  have whole : (2 : Int) ^ (n + 2) = 4 * 2 ^ n := by rw [pow_add, mul_comm]; norm_num
  rw [mulSat, refMulsat, ssat_eq_clampTo (by omega) (by omega), asr]
  rw [hn, half] at hx hy
  rw [hn, half, whole, clampTo, show n + 2 - 1 - 1 = n by omega]
  have pos : (0 : Int) < 2 ^ n := by positivity
  generalize (2 : Int) ^ n = p at *
  obtain ⟨low, -, inner⟩ := product_range hx hy
  split
  next pair =>
    have quotient : x * y / (4 * p) = p := by
      rw [pair.1, pair.2, show -(2 * p) * -(2 * p) = p * (4 * p) by ring,
        Int.mul_ediv_cancel _ (by omega)]
    omega
  next other =>
    have below : x * y ≤ 2 * p * (2 * p - 1) := inner other
    have floor_low : -p ≤ x * y / (4 * p) := (Int.le_ediv_iff_mul_le (by omega)).mpr (by nlinarith)
    have floor_high : x * y / (4 * p) < p := Int.ediv_lt_of_lt_mul (by omega) (by nlinarith)
    omega

/-- MUL answers the floor of the product of its two signed readings over 2^(W-1), wrapped on one
pair, and changes nothing else (R120). -/
theorem mul_eq_answered (w : WordSize) (a b : Word) (s : State) : mul w a b s =
    s.answered (.ofInt 64
      (if signed (bitsOf w) a = -(2 ^ (bitsOf w - 1)) ∧ signed (bitsOf w) b = -(2 ^ (bitsOf w - 1))
        then -(2 ^ (bitsOf w - 1))
        else signed (bitsOf w) a * signed (bitsOf w) b / 2 ^ (bitsOf w - 1))) := by
  rw [mul, respond_eq_answered, sW_eq_signed, sW_eq_signed,
    mulWrap_eq_ite w (signed_range _ a) (signed_range _ b)]

/-- MULSAT answers the saturating product of its two signed readings and changes nothing else
(R121). -/
theorem mulsat_eq_answered (w : WordSize) (a b : Word) (s : State) : mulsat w a b s =
    s.answered (.ofInt 64 (refMulsat (bitsOf w) (signed (bitsOf w) a) (signed (bitsOf w) b))) := by
  rw [mulsat, respond_eq_answered, sW_eq_signed, sW_eq_signed,
    mulSat_eq_refMulsat w (signed_range _ a) (signed_range _ b)]

/-- Settles O12: both forms are `mul`, at their word sizes. -/
theorem mulTruncatesAndWrapsOnOnePair : Obligations.MulTruncatesAndWrapsOnOnePair :=
  ⟨fun k _ _ => decode_eq_ok_iff_fields rfl rfl k,
    fun k _ _ => decode_eq_ok_iff_fields rfl rfl k,
    fun a b s => congrArg Host.Outcome.next (mul_eq_answered .q15 a b s),
    fun a b s => congrArg Host.Outcome.next (mul_eq_answered .q31 a b s)⟩

/-- Settles O13: both forms are `mulsat`, at their word sizes. -/
theorem mulsatDoublesTheFloorAndClampsOnePair :
    Obligations.MulsatDoublesTheFloorAndClampsOnePair :=
  ⟨fun k _ _ => decode_eq_ok_iff_fields rfl rfl k,
    fun k _ _ => decode_eq_ok_iff_fields rfl rfl k,
    fun a b s => congrArg Host.Outcome.next (mulsat_eq_answered .q15 a b s),
    fun a b s => congrArg Host.Outcome.next (mulsat_eq_answered .q31 a b s)⟩

/-! ## ABS and ABSSAT -/

/-- Negating a `W`-bit value wraps on the most-negative value alone, and returns it (R122). -/
theorem wrap_neg (w : WordSize) {x : Int}
    (hx : -(2 ^ (bitsOf w - 1)) ≤ x ∧ x < 2 ^ (bitsOf w - 1)) :
    wrap (bitsOf w) (-x) = if x = -(2 ^ (bitsOf w - 1)) then x else -x := by
  rw [wrap_of_le_half (one_le_two.trans (two_le_bitsOf w)) (by omega) (by omega)]
  split <;> split <;> omega

/-- `abs` is the absolute value, but the most-negative value is returned unchanged (R122). -/
theorem absWrap_eq_ite (w : WordSize) {x : Int}
    (hx : -(2 ^ (bitsOf w - 1)) ≤ x ∧ x < 2 ^ (bitsOf w - 1)) :
    absWrap w x = if x = -(2 ^ (bitsOf w - 1)) then -(2 ^ (bitsOf w - 1)) else |x| := by
  have pos : (0 : Int) < 2 ^ (bitsOf w - 1) := by positivity
  rw [absWrap]
  split
  next negative =>
    rw [wrap_neg w hx, abs_of_neg negative]
    split <;> omega
  next nonnegative => rw [if_neg (by omega), abs_of_nonneg (by omega)]

/-- `abs_sat` is the absolute value clamped to `W` bits: the overflow it detects is the one the clamp
acts on (R123). -/
theorem absSat_eq_clampTo (w : WordSize) {x : Int}
    (hx : -(2 ^ (bitsOf w - 1)) ≤ x ∧ x < 2 ^ (bitsOf w - 1)) :
    absSat w x = clampTo (bitsOf w) |x| := by
  rw [absSat]
  split
  next nonnegative =>
    rw [abs_of_nonneg nonnegative, clampTo_of_range hx.1 (by omega)]
  next negative =>
    rw [wrap_neg w hx, abs_of_neg (by omega), clampTo]
    split <;> split <;> omega

/-- ABS answers the wrapping absolute value of its signed reading and changes nothing else (R122). -/
theorem abs_eq_answered (w : WordSize) (a : Word) (s : State) :
    respond (absWrap w (sW w a)) s = s.answered (.ofInt 64
      (if signed (bitsOf w) a = -(2 ^ (bitsOf w - 1)) then -(2 ^ (bitsOf w - 1))
        else |signed (bitsOf w) a|)) := by
  rw [respond_eq_answered, sW_eq_signed, absWrap_eq_ite w (signed_range _ a)]

/-- ABSSAT answers the clamped absolute value of its signed reading and changes nothing else
(R123). -/
theorem abssat_eq_answered (w : WordSize) (a : Word) (s : State) :
    respond (absSat w (sW w a)) s =
      s.answered (.ofInt 64 (clampTo (bitsOf w) |signed (bitsOf w) a|)) := by
  rw [respond_eq_answered, sW_eq_signed, absSat_eq_clampTo w (signed_range _ a)]

/-- Settles O14: both forms answer `abs`, at their word sizes. -/
theorem absWrapsOnTheMostNegativeValue : Obligations.AbsWrapsOnTheMostNegativeValue :=
  ⟨fun k _ => decode_eq_ok_iff_fields rfl rfl k,
    fun k _ => decode_eq_ok_iff_fields rfl rfl k,
    fun a s => congrArg Host.Outcome.next (abs_eq_answered .q15 a s),
    fun a s => congrArg Host.Outcome.next (abs_eq_answered .q31 a s)⟩

/-- Settles O15: both forms answer `abs_sat`, at their word sizes. -/
theorem abssatClampsTheAbsoluteValue : Obligations.AbssatClampsTheAbsoluteValue :=
  ⟨fun k _ => decode_eq_ok_iff_fields rfl rfl k,
    fun k _ => decode_eq_ok_iff_fields rfl rfl k,
    fun a s => congrArg Host.Outcome.next (abssat_eq_answered .q15 a s),
    fun a s => congrArg Host.Outcome.next (abssat_eq_answered .q31 a s)⟩

end Sys2Proof.Machine
end

section
/-! PROOFS. 42_pi_controller.md: PIINIT and PIUPD, the range in which the accumulator does not wrap,
and zero input on a zero state vector. What a must-be-zero field and a missing channel do is said
here once, for every opcode and every controller command. -/

namespace Sys2Proof

/-! ## Must-be-zero fields -/

/-- All ones in the fields that must be zero for the opcode (30_encoding.md R74). -/
def Opcode.reservedHeader (op : Opcode) : Header :=
  { op.maskHeader with op := 0, w := !op.usesW }

/-- No must-be-zero field is set exactly when no bit of those fields is. -/
theorem header_fits_iff_and (hdr : Word) (op : Opcode) :
    (Header.ofWord hdr).fits op = true ↔ hdr &&& op.reservedHeader.toWord = 0 := by
  have all3 : ∀ x : BitVec 3, x &&& 7 = x := fun x => BitVec.and_allOnes
  have masked : ∀ (x : Byte) (u : Bool),
      x &&& (if u then 0 else 0xFF) = 0 ↔ (u = false → x = 0) := by
    intro x u
    cases u with
    | false => exact (Eq.congr_left (BitVec.and_allOnes (x := x))).trans (by simp)
    | true => simp
  have cleared : ∀ x : Byte, x &&& 0 = 0 := fun _ => BitVec.and_zero
  have flag : ∀ x u : Bool, (x && !u) = false ↔ (u = false → x = false) := by decide
  have zero : (0 : Word) = Header.toWord ⟨0, false, false, false, false, false, 0, 0, 0⟩ := by decide
  rw [zero, header_eq_toWord_iff, header_ofWord_and, header_ofWord_toWord, header_fits_iff]
  simp only [Opcode.reservedHeader, Opcode.maskHeader, Header.mk.injEq, all3, masked, flag,
    cleared, true_and]

end Sys2Proof

namespace Sys2Proof.Machine

/-! ## Rejections -/

/-- A command of an opcode with a must-be-zero field set is ILLEGAL_COMMAND (R75 (b), R78). -/
theorem runCommand_of_reserved {op : Opcode} {mask : Word}
    (reserved : op.reservedHeader.toWord = mask) {k : Command}
    (hop : k.hdr.extractLsb' 24 8 = op.byte) (nonzero : k.hdr &&& mask ≠ 0) (s : State) :
    runCommand k s = .next (s.rejected 1) := by
  have misfit : (Header.ofWord k.hdr).fits op = false := by
    rw [Bool.eq_false_iff, Ne, header_fits_iff_and, reserved]
    exact nonzero
  exact runCommand_of_error (decode_of_not_fits hop misfit) s

/-- A controller command on a channel from NCH on is BAD_CHANNEL (R78). -/
theorem onChannel_of_nch_le {s : State} {ch : Byte} (h : s.nch ≤ ch.toNat)
    (f : Channel → Channel × Int) : onChannel ch f s = s.rejected 2 :=
  onChannel_of_none ((chan_missing_iff s _).mp h) f

/-! ## Registers at a word size -/

/-- A register is read signed at `W` bits (00_scope.md R14). -/
theorem rd_eq_signed (w : WordSize) (c : Channel) (r : Reg) :
    c.rd w r = signed (bitsOf w) (c.read r) :=
  sW_eq_signed w (c.read r)

/-- An operand read at `W` bits and written to a register is its low `W` bits sign-extended
(10_state.md R29). -/
theorem bits32_sW (w : WordSize) (x : Word) :
    bits32 (sW w x) = (x.setWidth (bitsOf w)).signExtend 32 := by
  cases w with
  | q15 => exact bits32_signed16 x
  | q31 => rw [sW_q31, bits32_signed32]; simp

/-! ## PIINIT -/

/-- The header of PIINIT.Q15 has `OP` 0x20, SEL, RST and CH, every other field zero
(42_pi_controller.md R140). -/
theorem piinitQ15_hdr (g : GainSet) (rst : Bool) (ch : Byte) :
    (encode (.piinitQ15 g rst ch)).hdr = headerWord 0x20000000 g.sel false rst false ch 0 :=
  (headerWord_eq_toWord 0x20 false g.sel false rst false ch 0).symm

/-- The header of PIINIT.Q31 has `W` set beside them (R140). -/
theorem piinitQ31_hdr (g : GainSet) (rst : Bool) (ch : Byte) :
    (encode (.piinitQ31 g rst ch)).hdr = headerWord 0x20800000 g.sel false rst false ch 0 :=
  (headerWord_eq_toWord 0x20 true g.sel false rst false ch 0).symm

/-- The coefficients as every register shows them: the clamped sum in A0, the clamped negation in A1
(R140). -/
theorem piCoefficients_read (w : WordSize) (g : GainSet) (c : Channel) (r : Reg) :
    (piCoefficients w g c).read r = refPiinit (bitsOf w) g false c r := by
  have ne : Reg.gain g .a0 ≠ .gain g .a1 := by simp
  simp only [piCoefficients, channel_read_wr, satAdd, satSub, ssat_bitsOf, rd_eq_signed, zero_sub,
    refPiinit, Bool.false_eq_true, false_and, if_false]
  by_cases h : r = .gain g .a0
  · rw [if_neg (h ▸ ne), if_pos h, if_pos h, bits32]
  · rw [if_neg h, if_neg h, bits32]

/-- The registers after PIINIT: the coefficients, and with RST the zeroed state vector (R140). -/
theorem piinit_read (w : WordSize) (g : GainSet) (rst : Bool) (c : Channel) (r : Reg) :
    (piinit w g rst c).1.read r = refPiinit (bitsOf w) g rst c r := by
  cases rst with
  | false => exact piCoefficients_read w g c r
  | true =>
    simp only [piinit, if_true, piZeroState, channel_read_write, piCoefficients_read, refPiinit]
    cases r <;> simp

/-- PIINIT on a channel that exists answers 0 and leaves the registers of R140. -/
theorem piinit_updated (w : WordSize) (g : GainSet) (rst : Bool) {ch : Byte} {s : State}
    {c : Channel} (hc : s.chans[ch.toNat]? = some c) :
    s.Updated (onChannel ch (piinit w g rst) s) ch 0 (refPiinit (bitsOf w) g rst c) :=
  onChannel_updated hc _ _ (piinit_read w g rst c)

/-- Settles O19: both forms are `piinit`, at their word sizes. -/
theorem piinitDerivesTheCoefficients : Obligations.PiinitDerivesTheCoefficients :=
  ⟨fun k g rst ch => decode_eq_ok_iff_command rfl (piinitQ15_hdr g rst ch) k,
    fun k g rst ch => decode_eq_ok_iff_command rfl (piinitQ31_hdr g rst ch) k,
    fun g rst _ _ _ hc => ⟨_, rfl, piinit_updated .q15 g rst hc⟩,
    fun g rst _ _ _ hc => ⟨_, rfl, piinit_updated .q31 g rst hc⟩,
    fun _ s hop nonzero => runCommand_of_reserved (op := .piinit) (by decide) hop nonzero s,
    fun _ _ _ _ h => ⟨congrArg Host.Outcome.next (onChannel_of_nch_le h _),
      congrArg Host.Outcome.next (onChannel_of_nch_le h _)⟩⟩

/-! ## PIUPD -/

/-- The header of PIUPD.Q15 has `OP` 0x21, SEL, RND and CH, every other field zero (R141). -/
theorem piupdQ15_hdr (g : GainSet) (rnd : Bool) (ch : Byte) (a : Word) :
    (encode (.piupdQ15 g rnd ch a)).hdr = headerWord 0x21000000 g.sel rnd false false ch 0 :=
  (headerWord_eq_toWord 0x21 false g.sel rnd false false ch 0).symm

/-- The header of PIUPD.Q31 has `W` set beside them (R141). -/
theorem piupdQ31_hdr (g : GainSet) (rnd : Bool) (ch : Byte) (a : Word) :
    (encode (.piupdQ31 g rnd ch a)).hdr = headerWord 0x21800000 g.sel rnd false false ch 0 :=
  (headerWord_eq_toWord 0x21 true g.sel rnd false false ch 0).symm

/-- PIUPD answers the accumulator datapath (R141, R143). -/
theorem piupd_answer (w : WordSize) (g : GainSet) (rnd : Bool) (a : Word) (c : Channel) :
    (piupd w g rnd a c).2 = refPi (bitsOf w) (shiftOf w) g rnd a c := by
  rw [piupd, sW_eq_signed, piBranch_eq_refPi]

/-- The registers after PIUPD: the input in X1, the answer in Y1 (R141 step 5). -/
theorem piupd_read (w : WordSize) (g : GainSet) (rnd : Bool) (a : Word) (c : Channel) (r : Reg) :
    (piupd w g rnd a c).1.read r = refPiupd (bitsOf w) (shiftOf w) g rnd a c r := by
  have written : (piupd w g rnd a c).1 =
      (c.wr .x1 (sW w a)).wr .y1 (refPi (bitsOf w) (shiftOf w) g rnd a c) := by
    rw [← piupd_answer w g rnd a c, piupd]
  rw [written, channel_read_wr, channel_read_wr, bits32_sW, refPiupd, bits32]
  by_cases h : r = .x1
  · simp [h]
  · rw [if_neg h, if_neg h]

/-- PIUPD on a channel that exists answers the accumulator datapath and leaves the registers of
R141. -/
theorem piupd_updated (w : WordSize) (g : GainSet) (rnd : Bool) (a : Word) {ch : Byte} {s : State}
    {c : Channel} (hc : s.chans[ch.toNat]? = some c) :
    s.Updated (onChannel ch (piupd w g rnd a) s) ch
      (.ofInt 64 (refPi (bitsOf w) (shiftOf w) g rnd a c))
      (refPiupd (bitsOf w) (shiftOf w) g rnd a c) :=
  piupd_answer w g rnd a c ▸ onChannel_updated hc _ _ (piupd_read w g rnd a c)

/-- Settles O20: both forms are `piupd`, at their word sizes. -/
theorem piupdIsTheAccumulatorDatapath : Obligations.PiupdIsTheAccumulatorDatapath :=
  ⟨fun k g rnd ch a => decode_eq_ok_iff_command rfl (piupdQ15_hdr g rnd ch a) k,
    fun k g rnd ch a => decode_eq_ok_iff_command rfl (piupdQ31_hdr g rnd ch a) k,
    fun g rnd _ a _ _ hc => ⟨_, rfl, piupd_updated .q15 g rnd a hc⟩,
    fun g rnd _ a _ _ hc => ⟨_, rfl, piupd_updated .q31 g rnd a hc⟩,
    fun _ s hop nonzero => runCommand_of_reserved (op := .piupd) (by decide) hop nonzero s,
    fun _ _ _ _ _ h => ⟨congrArg Host.Outcome.next (onChannel_of_nch_le h _),
      congrArg Host.Outcome.next (onChannel_of_nch_le h _)⟩⟩

/-! ## The accumulator without wrap -/

/-- The exact sum of the update, before it is held in the accumulator (R141 step 2). -/
def piSum (w : WordSize) (g : GainSet) (a : Word) (c : Channel) : Int :=
  signed (bitsOf w) (c.read (.gain g .a0)) * signed (bitsOf w) a
    + signed (bitsOf w) (c.read (.gain g .a1)) * signed (bitsOf w) (c.read .x1)
    + signed (bitsOf w) (c.read .y1) * 2 ^ shiftOf w

/-- What rounding adds: half of the last kept bit's weight, or nothing (R143). -/
def roundHalf (w : WordSize) (rnd : Bool) : Int := if rnd then 2 ^ (shiftOf w - 1) else 0

/-- The datapath is the realigned accumulator of the exact sum (R141, R143). -/
theorem refPi_eq_realign (w : WordSize) (g : GainSet) (rnd : Bool) (a : Word) (c : Channel) :
    refPi (bitsOf w) (shiftOf w) g rnd a c = realign w rnd (accumulate w (piSum w g a c)) := by
  rw [← piBranch_eq_refPi, piBranch]
  simp only [rd_eq_signed, piSum]

/-- Realigning an accumulator that holds its sum, before and after rounding: the clamped floor
(R143). -/
theorem realign_accumulate_of_range (w : WordSize) (rnd : Bool) {e : Int}
    (low : -(2 ^ (2 * bitsOf w - 1)) ≤ e) (high : e + 2 ^ (shiftOf w - 1) < 2 ^ (2 * bitsOf w - 1)) :
    realign w rnd (accumulate w e) = clampTo (bitsOf w) ((e + roundHalf w rnd) / 2 ^ shiftOf w) := by
  have size : 1 ≤ bitsOf w := one_le_two.trans (two_le_bitsOf w)
  have half : (0 : Int) < 2 ^ (shiftOf w - 1) := by positivity
  have held : accumulate w e = e := wrap_of_range (by omega) low (by omega)
  have rounded : wrap (2 * bitsOf w) (e + 2 ^ (shiftOf w - 1)) = e + 2 ^ (shiftOf w - 1) :=
    wrap_of_range (by omega) (by omega) high
  rw [realign, ssat_eq_clampTo size (by omega), held, rounded, asr, roundHalf]
  cases rnd <;> simp

/-- A product with one factor at most `p` and the other a value of twice that range. -/
theorem halfScale_product_le {p x y : Int} (hx : |x| ≤ p) (hy : -(2 * p) ≤ y ∧ y < 2 * p) :
    |x * y| ≤ 2 * (p * p) := by
  have hy' : |y| ≤ 2 * p := abs_le.mpr ⟨hy.1, hy.2.le⟩
  calc |x * y| = |x| * |y| := abs_mul x y
    _ ≤ p * (2 * p) := mul_le_mul hx hy' (abs_nonneg y) ((abs_nonneg x).trans hx)
    _ = 2 * (p * p) := by ring

/-- With coefficients at most half of full scale the exact sum, rounded or not, fits the accumulator
(R142). With `p` = 2^(W-2) the three terms are at most 2p² each and the accumulator holds 8p². -/
theorem piSum_range {w : WordSize} {g : GainSet} (a : Word) {c : Channel}
    (h0 : |signed (bitsOf w) (c.read (.gain g .a0))| ≤ 2 ^ (bitsOf w - 2))
    (h1 : |signed (bitsOf w) (c.read (.gain g .a1))| ≤ 2 ^ (bitsOf w - 2)) :
    -(2 ^ (2 * bitsOf w - 1)) ≤ piSum w g a c
      ∧ piSum w g a c + 2 ^ (shiftOf w - 1) < 2 ^ (2 * bitsOf w - 1) := by
  have range : ∀ x, -(2 * 2 ^ (bitsOf w - 2)) ≤ signed (bitsOf w) x
      ∧ signed (bitsOf w) x < 2 * 2 ^ (bitsOf w - 2) := by
    cases w <;> exact fun x => signed_range _ x
  have whole : (2 : Int) ^ (2 * bitsOf w - 1) = 8 * (2 ^ (bitsOf w - 2) * 2 ^ (bitsOf w - 2)) := by
    cases w <;> norm_num
  have shift : |(2 : Int) ^ shiftOf w| ≤ 2 ^ (bitsOf w - 2) := by cases w <;> decide
  have half : (2 : Int) ^ (shiftOf w - 1) < 2 * (2 ^ (bitsOf w - 2) * 2 ^ (bitsOf w - 2)) := by
    cases w <;> norm_num
  have t0 := abs_le.mp (halfScale_product_le h0 (range a))
  have t1 := abs_le.mp (halfScale_product_le h1 (range (c.read .x1)))
  have t2 := abs_le.mp (halfScale_product_le shift (range (c.read .y1)))
  rw [mul_comm (2 ^ shiftOf w)] at t2
  rw [whole, piSum]
  omega

/-- With coefficients at most half of full scale the datapath is the clamped floor of the exact,
optionally rounded, sum over 2^S (R142, R143). -/
theorem refPi_of_halfScale {w : WordSize} {g : GainSet} (rnd : Bool) (a : Word) {c : Channel}
    (h0 : |signed (bitsOf w) (c.read (.gain g .a0))| ≤ 2 ^ (bitsOf w - 2))
    (h1 : |signed (bitsOf w) (c.read (.gain g .a1))| ≤ 2 ^ (bitsOf w - 2)) :
    refPi (bitsOf w) (shiftOf w) g rnd a c =
      clampTo (bitsOf w) ((piSum w g a c + roundHalf w rnd) / 2 ^ shiftOf w) := by
  obtain ⟨low, high⟩ := piSum_range a h0 h1
  rw [refPi_eq_realign, realign_accumulate_of_range w rnd low high]

/-- The response of PIUPD with coefficients at most half of full scale (R142). -/
theorem piupd_resp_of_halfScale {w : WordSize} {g : GainSet} (rnd : Bool) (a : Word) {ch : Byte}
    {s : State} {c : Channel} (hc : s.chans[ch.toNat]? = some c)
    (h0 : |signed (bitsOf w) (c.read (.gain g .a0))| ≤ 2 ^ (bitsOf w - 2))
    (h1 : |signed (bitsOf w) (c.read (.gain g .a1))| ≤ 2 ^ (bitsOf w - 2)) :
    (onChannel ch (piupd w g rnd a) s).resp = some
      { status := 0
        res := .ofInt 64
          (clampTo (bitsOf w) ((piSum w g a c + roundHalf w rnd) / 2 ^ shiftOf w)) } := by
  obtain ⟨resp, -⟩ := piupd_updated w g rnd a hc
  rw [resp, refPi_of_halfScale rnd a h0 h1]

/-- Settles O21: the sum is in the range that the accumulator holds. -/
theorem piupdIsExactForHalfScaleCoefficients :
    Obligations.PiupdIsExactForHalfScaleCoefficients := by
  constructor
  · rintro g rnd ch a s c _ _ hc rfl rfl h0 h1
    exact ⟨_, rfl, piupd_resp_of_halfScale (w := .q15) rnd a hc h0 h1⟩
  · rintro g rnd ch a s c _ _ hc rfl rfl h0 h1
    exact ⟨_, rfl, piupd_resp_of_halfScale (w := .q31) rnd a hc h0 h1⟩

/-- With A0 = Kp + Ki and A1 = -Kp the floor of the exact sum is the previous output plus the floor
of the increment: Y1 enters at weight 2^S, so it leaves the floor whole (R144). -/
theorem piSum_ediv_of_gains {w : WordSize} {g : GainSet} (a : Word) {c : Channel} {kp ki : Int}
    (h0 : signed (bitsOf w) (c.read (.gain g .a0)) = kp + ki)
    (h1 : signed (bitsOf w) (c.read (.gain g .a1)) = -kp) :
    piSum w g a c / 2 ^ shiftOf w = signed (bitsOf w) (c.read .y1)
      + (kp * (signed (bitsOf w) a - signed (bitsOf w) (c.read .x1)) + ki * signed (bitsOf w) a)
        / 2 ^ shiftOf w := by
  have regrouped : piSum w g a c =
      (kp * (signed (bitsOf w) a - signed (bitsOf w) (c.read .x1)) + ki * signed (bitsOf w) a)
        + signed (bitsOf w) (c.read .y1) * 2 ^ shiftOf w := by
    rw [piSum, h0, h1]
    ring
  rw [regrouped, Int.add_mul_ediv_right _ _ (by positivity), add_comm]

/-- PIUPD without rounding answers the clamped step of the discrete integrator (R144). -/
theorem piupd_resp_of_gains {w : WordSize} {g : GainSet} (a : Word) {ch : Byte} {s : State}
    {c : Channel} {kp ki : Int} (hc : s.chans[ch.toNat]? = some c)
    (h0 : signed (bitsOf w) (c.read (.gain g .a0)) = kp + ki)
    (h1 : signed (bitsOf w) (c.read (.gain g .a1)) = -kp)
    (sum_le : |kp + ki| ≤ 2 ^ (bitsOf w - 2)) (kp_le : |kp| ≤ 2 ^ (bitsOf w - 2)) :
    (onChannel ch (piupd w g false a) s).resp = some
      { status := 0
        res := .ofInt 64 (clampTo (bitsOf w) (signed (bitsOf w) (c.read .y1)
          + (kp * (signed (bitsOf w) a - signed (bitsOf w) (c.read .x1)) + ki * signed (bitsOf w) a)
            / 2 ^ shiftOf w)) } := by
  have unrounded : roundHalf w false = 0 := rfl
  rw [piupd_resp_of_halfScale false a hc (h0 ▸ sum_le) (by rw [h1, abs_neg]; exact kp_le),
    unrounded, add_zero, piSum_ediv_of_gains a h0 h1]

/-- Settles O22, the same step at both word sizes. -/
theorem piupdRealisesTheDiscreteIntegrator : Obligations.PiupdRealisesTheDiscreteIntegrator :=
  ⟨fun _ _ a _ _ _ _ hc h0 h1 sum_le kp_le =>
      ⟨_, rfl, piupd_resp_of_gains (w := .q15) a hc h0 h1 sum_le kp_le⟩,
    fun _ _ a _ _ _ _ hc h0 h1 sum_le kp_le =>
      ⟨_, rfl, piupd_resp_of_gains (w := .q31) a hc h0 h1 sum_le kp_le⟩⟩

/-! ## Zero input -/

/-- Writing to a register the pattern it holds changes nothing. -/
theorem channel_write_read (c : Channel) (r : Reg) : c.write r (c.read r) = c := by
  refine channel_ext fun q => ?_
  rw [channel_read_write]
  split
  next same => rw [same]
  next => rfl

/-- Replacing a channel by itself changes nothing. -/
theorem setChannel_self {s : State} {ch : Byte} {c : Channel} (hc : s.chans[ch.toNat]? = some c) :
    setChannel ch c s = s := by
  obtain ⟨lt, rfl⟩ := List.getElem?_eq_some_iff.mp hc
  rw [setChannel, List.set_getElem_self]

/-- A zero sum realigns to zero: half of a bit is not a whole one (42_pi_controller.md R147). -/
theorem realign_accumulate_zero (w : WordSize) (rnd : Bool) :
    realign w rnd (accumulate w 0) = 0 := by
  cases w <;> cases rnd <;> decide

/-- A zero sample on a zero state vector answers 0 and leaves the channel as it is, whatever the
coefficients are (R147). -/
theorem piupd_zero {w : WordSize} (g : GainSet) (rnd : Bool) {a : Word} {c : Channel}
    (ha : sW w a = 0) (hx : c.read .x1 = 0) (hy : c.read .y1 = 0) : piupd w g rnd a c = (c, 0) := by
  have zero : sW w 0 = 0 := by cases w <;> rfl
  have answer : piBranch w g rnd 0 c = 0 := by
    simp only [piBranch, Channel.rd, hx, hy, zero, mul_zero, zero_mul, add_zero,
      realign_accumulate_zero]
  have keepX : c.wr .x1 0 = c := (congrArg (c.write .x1) hx.symm).trans (channel_write_read c .x1)
  have keepY : c.wr .y1 0 = c := (congrArg (c.write .y1) hy.symm).trans (channel_write_read c .y1)
  simp only [piupd, ha, answer, keepX, keepY]

/-- What a zero sample on a channel is: PIUPD at some word size, with an input that reads as 0. -/
theorem exec_of_zeroSampleOn {ch : Byte} {i : Instr} (h : i.zeroSampleOn ch = true) :
    ∃ w g rnd a, sW w a = 0 ∧ ∀ s, exec i s = .next (onChannel ch (piupd w g rnd a) s) := by
  cases i with
  | piupdQ15 g rnd n a =>
    obtain ⟨rfl, ha⟩ : n = ch ∧ a.setWidth 16 = 0 := by simpa [Instr.zeroSampleOn] using h
    exact ⟨.q15, g, rnd, a, congrArg BitVec.toInt ha, fun _ => rfl⟩
  | piupdQ31 g rnd n a =>
    obtain ⟨rfl, ha⟩ : n = ch ∧ a = 0 := by simpa [Instr.zeroSampleOn] using h
    exact ⟨.q31, g, rnd, a, congrArg BitVec.toInt ha, fun _ => rfl⟩
  | _ => cases h

section
variable {ch : Byte} {c : Channel} (hx : c.read .x1 = 0) (hy : c.read .y1 = 0)
include hx hy

/-- On a zero state vector a zero sample only answers, and answers 0 (R147). -/
theorem exec_zeroSample {i : Instr} {s : State} (hc : s.chans[ch.toNat]? = some c)
    (hi : i.zeroSampleOn ch = true) : exec i s = .next (s.answered 0) := by
  obtain ⟨w, g, rnd, a, ha, run⟩ := exec_of_zeroSampleOn hi
  rw [run, onChannel_of_some hc, piupd_zero g rnd ha hx hy, setChannel_self hc,
    respond_eq_answered]
  rfl

/-- So do any number of them, one or more (R147). -/
theorem execAll_zeroSamples {samples : List Instr} (some_sample : samples ≠ [])
    (zero : ∀ i ∈ samples, i.zeroSampleOn ch = true) {s : State}
    (hc : s.chans[ch.toNat]? = some c) : execAll samples s = some (s.answered 0) := by
  induction samples generalizing s with
  | nil => exact absurd rfl some_sample
  | cons i rest ih =>
    obtain ⟨first, later⟩ := List.forall_mem_cons.mp zero
    have step : execAll (i :: rest) s = execAll rest (s.answered 0) := by
      rw [execAll, exec_zeroSample hx hy hc first]
    rw [step]
    cases rest with
    | nil => rfl
    | cons j rest => exact ih (List.cons_ne_nil j rest) later hc

end

/-- Settles O23: the samples leave the state as it was but for the answer 0. -/
theorem zeroInputKeepsZeroOutput : Obligations.ZeroInputKeepsZeroOutput := by
  intro ch s samples hx hy some_sample zero
  obtain ⟨c, hc, x1⟩ := Option.map_eq_some_iff.mp hx
  rw [reg_of_chans hc, Option.some.injEq] at hy
  exact ⟨_, execAll_zeroSamples x1 hy some_sample zero hc, rfl, fun _ _ => rfl⟩

end Sys2Proof.Machine
end

section
/-! PROOFS. 43_pid_controller.md: PIDINIT and PIDUPD against their datapath, the hold that MASK counts
down, the range of the derivative filter, and PIDUPD without a derivative. -/

namespace Sys2Proof.Machine

/-! ## PIDINIT -/

/-- The header of PIDINIT.Q15 has `OP` 0x22, SEL, RST and CH, every other field zero
(43_pid_controller.md R160). -/
theorem pidinitQ15_hdr (g : GainSet) (rst : Bool) (ch : Byte) :
    (encode (.pidinitQ15 g rst ch)).hdr = headerWord 0x22000000 g.sel false rst false ch 0 :=
  (headerWord_eq_toWord 0x22 false g.sel false rst false ch 0).symm

/-- The header of PIDINIT.Q31 has `W` set beside them (R160). -/
theorem pidinitQ31_hdr (g : GainSet) (rst : Bool) (ch : Byte) :
    (encode (.pidinitQ31 g rst ch)).hdr = headerWord 0x22800000 g.sel false rst false ch 0 :=
  (headerWord_eq_toWord 0x22 true g.sel false rst false ch 0).symm

/-- A signed reading at `W` bits written back is the low `W` bits sign-extended (10_state.md R29). -/
theorem bits32_signed (w : WordSize) (x : Word) :
    bits32 (signed (bitsOf w) x) = (x.setWidth (bitsOf w)).signExtend 32 :=
  sW_eq_signed w x ▸ bits32_sW w x

/-- The derivative coefficients as every register shows them: KD in A0D and A2D, the clamped -2 KD in
A1D (R160). -/
theorem pidCoefficients_read (w : WordSize) (g : GainSet) (c : Channel) (r : Reg) :
    (pidCoefficients w g c).read r =
      if r = .gain g .a0d ∨ r = .gain g .a2d then
        ((c.read (.gain g .kd)).setWidth (bitsOf w)).signExtend 32
      else if r = .gain g .a1d then
        .ofInt 32 (clampTo (bitsOf w) (-2 * signed (bitsOf w) (c.read (.gain g .kd))))
      else c.read r := by
  have ne : Reg.gain g .a0d ≠ .gain g .a1d := by simp
  simp only [pidCoefficients, channel_read_wr, ssat_bitsOf, rd_eq_signed, bits32_signed]
  by_cases a2d : r = .gain g .a2d
  · rw [if_pos a2d, if_pos (.inr a2d)]
  · by_cases a0d : r = .gain g .a0d
    · rw [if_neg a2d, if_neg (a0d ▸ ne), if_pos a0d, if_pos (.inl a0d)]
    · rw [if_neg a2d, if_neg a0d, if_neg (not_or.mpr ⟨a0d, a2d⟩), bits32]

/-- The five coefficients: A0 and A1 are derived first, and leave KD alone (R160). -/
theorem pidCoefficients_piCoefficients_read (w : WordSize) (g : GainSet) (c : Channel) (r : Reg) :
    (pidCoefficients w g (piCoefficients w g c)).read r = refPidinit (bitsOf w) g false c r := by
  have kd : (piCoefficients w g c).read (.gain g .kd) = c.read (.gain g .kd) := by
    rw [piCoefficients_read]
    simp [refPiinit]
  rw [pidCoefficients_read, kd, piCoefficients_read, refPidinit]
  simp only [Bool.false_eq_true, false_and, if_false]

/-- The registers after PIDINIT: the coefficients, and with RST the zeroed state vector (R160). -/
theorem pidinit_read (w : WordSize) (g : GainSet) (rst : Bool) (c : Channel) (r : Reg) :
    (pidinit w g rst c).1.read r = refPidinit (bitsOf w) g rst c r := by
  cases rst with
  | false => exact pidCoefficients_piCoefficients_read w g c r
  | true =>
    simp only [pidinit, if_true, pidZeroState, channel_read_write,
      pidCoefficients_piCoefficients_read, refPidinit, refPiinit]
    cases r <;> simp

/-- PIDINIT on a channel that exists answers 0 and leaves the registers of R160. -/
theorem pidinit_updated (w : WordSize) (g : GainSet) (rst : Bool) {ch : Byte} {s : State}
    {c : Channel} (hc : s.chans[ch.toNat]? = some c) :
    s.Updated (onChannel ch (pidinit w g rst) s) ch 0 (refPidinit (bitsOf w) g rst c) :=
  onChannel_updated hc _ _ (pidinit_read w g rst c)

/-- Settles O24: both forms are `pidinit`, at their word sizes. -/
theorem pidinitDerivesTheCoefficients : Obligations.PidinitDerivesTheCoefficients :=
  ⟨fun k g rst ch => decode_eq_ok_iff_command rfl (pidinitQ15_hdr g rst ch) k,
    fun k g rst ch => decode_eq_ok_iff_command rfl (pidinitQ31_hdr g rst ch) k,
    fun g rst _ _ _ hc => ⟨_, rfl, pidinit_updated .q15 g rst hc⟩,
    fun g rst _ _ _ hc => ⟨_, rfl, pidinit_updated .q31 g rst hc⟩,
    fun _ s hop nonzero => runCommand_of_reserved (op := .pidinit) (by decide) hop nonzero s,
    fun _ _ _ _ h => ⟨congrArg Host.Outcome.next (onChannel_of_nch_le h _),
      congrArg Host.Outcome.next (onChannel_of_nch_le h _)⟩⟩

/-! ## PIDUPD -/

/-- The header of PIDUPD.Q15 has `OP` 0x23, SEL, RND, M and CH, every other field zero (R161). -/
theorem pidupdQ15_hdr (g : GainSet) (rnd m : Bool) (ch : Byte) (a : Word) :
    (encode (.pidupdQ15 g rnd m ch a)).hdr = headerWord 0x23000000 g.sel rnd false m ch 0 :=
  (headerWord_eq_toWord 0x23 false g.sel rnd false m ch 0).symm

/-- The header of PIDUPD.Q31 has `W` set beside them (R161). -/
theorem pidupdQ31_hdr (g : GainSet) (rnd m : Bool) (ch : Byte) (a : Word) :
    (encode (.pidupdQ31 g rnd m ch a)).hdr = headerWord 0x23800000 g.sel rnd false m ch 0 :=
  (headerWord_eq_toWord 0x23 true g.sel rnd false m ch 0).symm

/-- A sample that is held (R161, R166). -/
theorem pidupd_of_holds (w : WordSize) (g : GainSet) (rnd : Bool) {m : Bool} (dfsh : Nat) (a : Word)
    {c : Channel} (holds : refHolds m c) : pidupd w g rnd m dfsh a c = pidHold w c :=
  if_pos holds

/-- A sample that is computed (R161). -/
theorem pidupd_of_not_holds (w : WordSize) (g : GainSet) (rnd : Bool) {m : Bool} (dfsh : Nat)
    (a : Word) {c : Channel} (computes : ¬ refHolds m c) :
    pidupd w g rnd m dfsh a c = pidCompute w g rnd dfsh a c :=
  if_neg computes

/-- With `M = 0` no sample is held (R166). -/
theorem not_refHolds_false (c : Channel) : ¬ refHolds false c := fun holds => nomatch holds.1

/-- Counting down is the subtraction of one from the pattern. -/
theorem bits32_toInt_sub_one (x : Word) : bits32 (x.toInt - 1) = x - 1 := by
  rw [bits32, sub_eq_add_neg, BitVec.ofInt_add, BitVec.ofInt_toInt, sub_eq_add_neg]
  rfl

/-- The registers after a held sample (R166). -/
theorem pidHold_read (w : WordSize) (c : Channel) (r : Reg) :
    (pidHold w c).1.read r = refPidHeld c r := by
  rw [pidHold, channel_read_wr, bits32_toInt_sub_one, refPidHeld]

/-- The filtered derivative of a sample (R164). -/
theorem filterDerivative_eq_refFilter (w : WordSize) (dfsh : Nat) (g : GainSet) (a : Word)
    (c : Channel) :
    filterDerivative dfsh (signed (bitsOf w) (c.read .dfilt))
      (refDraw (bitsOf w) (shiftOf w) g a c) = refFilter (bitsOf w) (shiftOf w) dfsh g a c := rfl

/-- A computed sample in the terms of the datapath: what it writes, register by register, and what
it answers (R161, R165, R167). -/
theorem pidCompute_eq (w : WordSize) (g : GainSet) (rnd : Bool) (dfsh : Nat) (a : Word)
    (c : Channel) :
    pidCompute w g rnd dfsh a c =
      (((((c.wr .x2 (sW w (c.read .x1))).wr .x1 (sW w a)).wr .y1
          (refPid (bitsOf w) (shiftOf w) dfsh g rnd a c)).wr .draw
          (refDraw (bitsOf w) (shiftOf w) g a c)).wr .dfilt
          (refFilter (bitsOf w) (shiftOf w) dfsh g a c),
        refPid (bitsOf w) (shiftOf w) dfsh g rnd a c) := by
  simp only [pidCompute, rd_eq_signed, sW_eq_signed, piBranch_eq_refPi, rawDerivative_eq_refDraw,
    filterDerivative_eq_refFilter, satAdd, ssat_bitsOf, refPid]

/-- The registers after a computed sample (R161, R167). -/
theorem pidCompute_read (w : WordSize) (g : GainSet) (rnd : Bool) (dfsh : Nat) (a : Word)
    (c : Channel) (r : Reg) :
    (pidCompute w g rnd dfsh a c).1.read r =
      refPidupd (bitsOf w) (shiftOf w) dfsh g rnd a c r := by
  simp only [pidCompute_eq, channel_read_wr, bits32_sW, refPidupd]
  cases r <;> simp [bits32]

section
variable (w : WordSize) (g : GainSet) (rnd : Bool) {m : Bool} (dfsh : Nat) (a : Word) {ch : Byte}
  {s : State} {c : Channel} (hc : s.chans[ch.toNat]? = some c)
include hc

/-- A held PIDUPD on a channel that exists answers Y1 and counts MASK down (R166). -/
theorem pidupd_updated_of_holds (holds : refHolds m c) :
    s.Updated (onChannel ch (pidupd w g rnd m dfsh a) s) ch
      (.ofInt 64 (signed (bitsOf w) (c.read .y1))) (refPidHeld c) := by
  have held := pidupd_of_holds w g rnd dfsh a holds
  have answer : (pidupd w g rnd m dfsh a c).2 = signed (bitsOf w) (c.read .y1) := by
    rw [held, pidHold, rd_eq_signed]
  exact answer ▸ onChannel_updated hc _ _ fun r => held ▸ pidHold_read w c r

/-- A computed PIDUPD on a channel that exists answers the combined output and leaves the registers
of R161. -/
theorem pidupd_updated_of_not_holds (computes : ¬ refHolds m c) :
    s.Updated (onChannel ch (pidupd w g rnd m dfsh a) s) ch
      (.ofInt 64 (refPid (bitsOf w) (shiftOf w) dfsh g rnd a c))
      (refPidupd (bitsOf w) (shiftOf w) dfsh g rnd a c) := by
  have computed := pidupd_of_not_holds w g rnd dfsh a computes
  have answer : (pidupd w g rnd m dfsh a c).2 =
      refPid (bitsOf w) (shiftOf w) dfsh g rnd a c := by
    rw [computed, pidCompute_eq]
  exact answer ▸ onChannel_updated hc _ _ fun r => computed ▸ pidCompute_read w g rnd dfsh a c r

/-- What a register of the channel holds after PIDUPD with `M = 0` (R161). -/
theorem pidupd_reg (r : Reg) :
    (onChannel ch (pidupd w g rnd false dfsh a) s).reg? ch.toNat r =
      some (refPidupd (bitsOf w) (shiftOf w) dfsh g rnd a c r) := by
  obtain ⟨-, -, -, -, -, regs⟩ :=
    pidupd_updated_of_not_holds w g rnd dfsh a hc (not_refHolds_false c)
  rw [regs, if_pos rfl]

end

/-- Settles O25: both forms are `pidupd`, at their word sizes. -/
theorem pidupdIsTheTwoBranchDatapath : Obligations.PidupdIsTheTwoBranchDatapath :=
  ⟨fun k g rnd m ch a => decode_eq_ok_iff_command rfl (pidupdQ15_hdr g rnd m ch a) k,
    fun k g rnd m ch a => decode_eq_ok_iff_command rfl (pidupdQ31_hdr g rnd m ch a) k,
    fun g rnd _ _ a s _ hc holds =>
      ⟨⟨_, rfl, pidupd_updated_of_holds .q15 g rnd s.dfsh a hc holds⟩,
        ⟨_, rfl, pidupd_updated_of_holds .q31 g rnd s.dfsh a hc holds⟩⟩,
    fun g rnd _ _ a s _ hc computes =>
      ⟨⟨_, rfl, pidupd_updated_of_not_holds .q15 g rnd s.dfsh a hc computes⟩,
        ⟨_, rfl, pidupd_updated_of_not_holds .q31 g rnd s.dfsh a hc computes⟩⟩,
    fun _ s hop nonzero => runCommand_of_reserved (op := .pidupd) (by decide) hop nonzero s,
    fun _ _ _ _ _ _ h => ⟨congrArg Host.Outcome.next (onChannel_of_nch_le h _),
      congrArg Host.Outcome.next (onChannel_of_nch_le h _)⟩⟩

/-! ## The hold -/

/-- `t` holds the registers of `s`, but for MASK of channel `ch`, which is `v`. -/
def State.MaskLeft (s t : State) (ch : Byte) (v : Word) : Prop :=
  ∀ n r, t.reg? n r = if n = ch.toNat ∧ r = .mask then some v else s.reg? n r

/-- Nothing done leaves MASK as it is. -/
theorem State.MaskLeft.refl {s : State} {ch : Byte} {v : Word}
    (mask : s.reg? ch.toNat .mask = some v) : s.MaskLeft s ch v := by
  intro n r
  split
  next here => obtain ⟨rfl, rfl⟩ := here; exact mask
  next => rfl

/-- The last MASK that was left is what remains. -/
theorem State.MaskLeft.trans {s t u : State} {ch : Byte} {v v' : Word} (first : s.MaskLeft t ch v)
    (second : t.MaskLeft u ch v') : s.MaskLeft u ch v' := by
  intro n r
  rw [second]
  split
  next => rfl
  next elsewhere => rw [first, if_neg elsewhere]

/-- What a masked sample on a channel is: PIDUPD with `M = 1` at some word size. -/
theorem exec_of_maskedSampleOn {ch : Byte} {i : Instr} (masked : i.maskedSampleOn ch = true) :
    ∃ w g rnd a, i.sampleBits = bitsOf w
      ∧ ∀ s, exec i s = .next (onChannel ch (pidupd w g rnd true s.dfsh a) s) := by
  cases i with
  | pidupdQ15 g rnd m n a =>
    obtain ⟨rfl, rfl⟩ : m = true ∧ n = ch := by simpa [Instr.maskedSampleOn] using masked
    exact ⟨.q15, g, rnd, a, rfl, fun _ => rfl⟩
  | pidupdQ31 g rnd m n a =>
    obtain ⟨rfl, rfl⟩ : m = true ∧ n = ch := by simpa [Instr.maskedSampleOn] using masked
    exact ⟨.q31, g, rnd, a, rfl, fun _ => rfl⟩
  | _ => cases masked

/-- A masked sample with MASK positive leaves MASK one less and answers Y1 (R166). -/
theorem exec_heldSample {ch : Byte} {i : Instr} {s : State} {v y : Word}
    (mask : s.reg? ch.toNat .mask = some v) (y1 : s.reg? ch.toNat .y1 = some y)
    (positive : 0 < v.toInt) (masked : i.maskedSampleOn ch = true) :
    ∃ t, exec i s = .next t ∧ s.MaskLeft t ch (v - 1)
      ∧ t.resp = some { status := 0, res := .ofInt 64 (signed i.sampleBits y) } := by
  obtain ⟨c, hc, rfl⟩ := Option.map_eq_some_iff.mp mask
  obtain rfl : c.read .y1 = y := Option.some.inj ((reg_of_chans hc .y1).symm.trans y1)
  obtain ⟨w, g, rnd, a, bits, run⟩ := exec_of_maskedSampleOn masked
  obtain ⟨resp, -, -, -, -, regs⟩ :=
    pidupd_updated_of_holds (m := true) w g rnd s.dfsh a hc ⟨rfl, positive⟩
  refine ⟨_, run s, fun n r => ?_, bits ▸ resp⟩
  rw [regs]
  by_cases here : n = ch.toNat
  · subst here
    rw [if_pos rfl, reg_of_chans hc, ← apply_ite some, refPidHeld]
    simp only [true_and]
  · rw [if_neg here, if_neg fun both => here both.1]

/-- A positive word counted down reads one less. -/
theorem toInt_sub_one {v : Word} (positive : 0 < v.toInt) : (v - 1).toInt = v.toInt - 1 := by
  have high : v.toInt < 2 ^ 31 := BitVec.toInt_lt
  rw [← bits32_toInt_sub_one, toInt_bits32 (by omega) (by omega)]

/-- Any number of masked samples, at most MASK, count it down by that number, and the last answers
Y1 (R166). -/
theorem execAll_heldSamples {ch : Byte} {samples : List Instr} {s : State} {v y : Word}
    (mask : s.reg? ch.toNat .mask = some v) (y1 : s.reg? ch.toNat .y1 = some y)
    (enough : (samples.length : Int) ≤ v.toInt)
    (masked : ∀ i ∈ samples, i.maskedSampleOn ch = true) :
    ∃ t, execAll samples s = some t ∧ s.MaskLeft t ch (v - BitVec.ofNat 32 samples.length)
      ∧ ∀ i, samples.getLast? = some i →
          t.resp = some { status := 0, res := .ofInt 64 (signed i.sampleBits y) } := by
  induction samples generalizing s v with
  | nil => exact ⟨s, rfl, .refl (mask.trans (by simp)), fun _ h => nomatch h⟩
  | cons i rest ih =>
    obtain ⟨first, later⟩ := List.forall_mem_cons.mp masked
    rw [List.length_cons, Nat.cast_succ] at enough
    have positive : 0 < v.toInt := by omega
    obtain ⟨t, run, left, resp⟩ := exec_heldSample mask y1 positive first
    have step : execAll (i :: rest) s = execAll rest t := by rw [execAll, run]
    have count : v - BitVec.ofNat 32 (rest.length + 1) = v - 1 - BitVec.ofNat 32 rest.length := by
      rw [Nat.add_comm, BitVec.ofNat_add, ← sub_sub]
      rfl
    rw [step, List.length_cons, count]
    cases rest with
    | nil =>
      refine ⟨t, rfl, by simpa using left, fun j last => ?_⟩
      obtain rfl : i = j := Option.some.inj last
      exact resp
    | cons j rest =>
      have mask' : t.reg? ch.toNat .mask = some (v - 1) := by rw [left, if_pos ⟨rfl, rfl⟩]
      have y1' : t.reg? ch.toNat .y1 = some y := by rw [left, if_neg (by simp), y1]
      obtain ⟨u, runs, left', last⟩ := ih mask' y1' (by rw [toInt_sub_one positive]; omega) later
      exact ⟨u, runs, left.trans left', by rwa [List.getLast?_cons_cons]⟩

/-- With MASK zero or negative, `M = 1` computes as `M = 0` does (R166). -/
theorem onChannel_pidupd_of_mask_le_zero (w : WordSize) (g : GainSet) (rnd : Bool) (dfsh : Nat)
    (a : Word) {ch : Byte} {s : State} {v : Word} (mask : s.reg? ch.toNat .mask = some v)
    (spent : v.toInt ≤ 0) :
    onChannel ch (pidupd w g rnd true dfsh a) s = onChannel ch (pidupd w g rnd false dfsh a) s := by
  obtain ⟨c, hc, rfl⟩ := Option.map_eq_some_iff.mp mask
  have computes : ¬ refHolds true c := fun ⟨_, positive⟩ => positive.not_ge spent
  rw [onChannel_of_some hc, onChannel_of_some hc, pidupd_of_not_holds w g rnd dfsh a computes,
    pidupd_of_not_holds w g rnd dfsh a (not_refHolds_false c)]

/-- With `M = 0` MASK is left as it is (R166). -/
theorem pidupd_unmasked_mask (w : WordSize) (g : GainSet) (rnd : Bool) (dfsh : Nat) (a : Word)
    {ch : Byte} {s : State} {v : Word} (mask : s.reg? ch.toNat .mask = some v) :
    (onChannel ch (pidupd w g rnd false dfsh a) s).reg? ch.toNat .mask = some v := by
  obtain ⟨c, hc, rfl⟩ := Option.map_eq_some_iff.mp mask
  simp [pidupd_reg w g rnd dfsh a hc, refPidupd]

/-- Settles O26, by induction on the held samples; a computed sample does not look at `M`. -/
theorem maskCountsDownOverHeldSamples : Obligations.MaskCountsDownOverHeldSamples :=
  ⟨fun _ _ _ _ _ mask y1 enough masked => execAll_heldSamples mask y1 enough masked,
    fun _ s _ mask spent g rnd a =>
      ⟨congrArg Host.Outcome.next
          (onChannel_pidupd_of_mask_le_zero .q15 g rnd s.dfsh a mask spent),
        congrArg Host.Outcome.next
          (onChannel_pidupd_of_mask_le_zero .q31 g rnd s.dfsh a mask spent)⟩,
    fun _ s _ mask g rnd a =>
      ⟨⟨_, rfl, pidupd_unmasked_mask .q15 g rnd s.dfsh a mask⟩,
        ⟨_, rfl, pidupd_unmasked_mask .q31 g rnd s.dfsh a mask⟩⟩⟩

/-! ## The derivative filter -/

/-- A `W`-bit value survives being written to a register (00_scope.md R14). -/
theorem toInt_bits32_of_range (w : WordSize) {v : Int} (low : -(2 ^ (bitsOf w - 1)) ≤ v)
    (high : v ≤ 2 ^ (bitsOf w - 1) - 1) : (bits32 v).toInt = v := by
  have inside : (2 : Int) ^ (bitsOf w - 1) ≤ 2147483648 := by cases w <;> decide
  exact toInt_bits32 (by omega) (by omega)

/-- With DFSH = 0 the filter passes the raw derivative (43_pid_controller.md R164). -/
theorem refFilter_zero (n k : Nat) (g : GainSet) (a : Word) (c : Channel) :
    refFilter n k 0 g a c = refDraw n k g a c := by
  rw [refFilter, pow_zero, Int.ediv_one, add_sub_cancel]

/-- The raw derivative is clamped, so it is a `W`-bit value (R163). -/
theorem refDraw_range (n k : Nat) (g : GainSet) (a : Word) (c : Channel) :
    -(2 ^ (n - 1)) ≤ refDraw n k g a c ∧ refDraw n k g a c ≤ 2 ^ (n - 1) - 1 :=
  refRealign_range n k false _

/-- The filtered derivative lies between the old one and the raw one (R164). -/
theorem refFilter_between (w : WordSize) (dfsh : Nat) (g : GainSet) (a : Word) (c : Channel) :
    min (signed (bitsOf w) (c.read .dfilt)) (refDraw (bitsOf w) (shiftOf w) g a c)
        ≤ refFilter (bitsOf w) (shiftOf w) dfsh g a c
      ∧ refFilter (bitsOf w) (shiftOf w) dfsh g a c
        ≤ max (signed (bitsOf w) (c.read .dfilt)) (refDraw (bitsOf w) (shiftOf w) g a c) :=
  filterDerivative_between dfsh _ _

/-- After a computed PIDUPD the new DFILT lies between the old DFILT and the new DRAW: the ends are
`W`-bit values, so what is between is one too, and being written to a register keeps it (R164). -/
theorem pidupd_dfilt_between (w : WordSize) (g : GainSet) (rnd : Bool) (a : Word) {ch : Byte}
    {s : State} {c : Channel} (hc : s.chans[ch.toNat]? = some c) :
    ∃ draw df,
      (onChannel ch (pidupd w g rnd false s.dfsh a) s).reg? ch.toNat .draw = some draw
        ∧ (onChannel ch (pidupd w g rnd false s.dfsh a) s).reg? ch.toNat .dfilt = some df
        ∧ min (signed (bitsOf w) (c.read .dfilt)) draw.toInt ≤ df.toInt
        ∧ df.toInt ≤ max (signed (bitsOf w) (c.read .dfilt)) draw.toInt
        ∧ (s.dfsh = 0 → df = draw) := by
  obtain ⟨oldLow, oldHigh⟩ := signed_range (bitsOf w) (c.read .dfilt)
  obtain ⟨rawLow, rawHigh⟩ := refDraw_range (bitsOf w) (shiftOf w) g a c
  obtain ⟨low, high⟩ := refFilter_between w s.dfsh g a c
  have draw := toInt_bits32_of_range w rawLow rawHigh
  have df := toInt_bits32_of_range w (v := refFilter (bitsOf w) (shiftOf w) s.dfsh g a c)
    (by omega) (by omega)
  refine ⟨bits32 _, bits32 _, pidupd_reg w g rnd s.dfsh a hc .draw,
    pidupd_reg w g rnd s.dfsh a hc .dfilt, ?_⟩
  rw [draw, df]
  refine ⟨low, high, fun zero => ?_⟩
  rw [zero]
  exact congrArg bits32 (refFilter_zero _ _ g a c)

/-- Settles O27, the same filter at both word sizes. -/
theorem filteredDerivativeLiesBetween : Obligations.FilteredDerivativeLiesBetween :=
  ⟨fun g rnd _ a _ _ hc =>
      let ⟨draw, df, between⟩ := pidupd_dfilt_between .q15 g rnd a hc
      ⟨_, draw, df, rfl, between⟩,
    fun g rnd _ a _ _ hc =>
      let ⟨draw, df, between⟩ := pidupd_dfilt_between .q31 g rnd a hc
      ⟨_, draw, df, rfl, between⟩⟩

/-! ## PIDUPD without a derivative -/

/-- The proportional+integral output is clamped, so it is a `W`-bit value (42_pi_controller.md
R143). -/
theorem refPi_range (n k : Nat) (g : GainSet) (rnd : Bool) (a : Word) (c : Channel) :
    -(2 ^ (n - 1)) ≤ refPi n k g rnd a c ∧ refPi n k g rnd a c ≤ 2 ^ (n - 1) - 1 :=
  refRealign_range n k rnd _

/-- The derivative coefficients of a set and DFILT read as zero at `W` bits (43_pid_controller.md
R169). -/
structure NoDerivative (w : WordSize) (g : GainSet) (c : Channel) : Prop where
  a0d : signed (bitsOf w) (c.read (.gain g .a0d)) = 0
  a1d : signed (bitsOf w) (c.read (.gain g .a1d)) = 0
  a2d : signed (bitsOf w) (c.read (.gain g .a2d)) = 0
  dfilt : signed (bitsOf w) (c.read .dfilt) = 0

section
variable {w : WordSize} {g : GainSet} {c : Channel} (noD : NoDerivative w g c)
include noD

/-- Without derivative coefficients the raw derivative is zero (R163). -/
theorem NoDerivative.refDraw_eq_zero (a : Word) : refDraw (bitsOf w) (shiftOf w) g a c = 0 := by
  rw [← rawDerivative_eq_refDraw, rawDerivative]
  simp only [rd_eq_signed, noD.a0d, noD.a1d, noD.a2d, zero_mul, add_zero]
  exact realign_accumulate_zero w false

/-- From a zero DFILT the filtered derivative is then zero too (R164). -/
theorem NoDerivative.refFilter_eq_zero (dfsh : Nat) (a : Word) :
    refFilter (bitsOf w) (shiftOf w) dfsh g a c = 0 := by
  rw [refFilter, noD.dfilt, noD.refDraw_eq_zero, sub_zero, Int.zero_ediv, add_zero]

/-- The combined output is then that of the other branch, which the second clamp leaves alone
(R165). -/
theorem NoDerivative.refPid_eq_refPi (rnd : Bool) (dfsh : Nat) (a : Word) :
    refPid (bitsOf w) (shiftOf w) dfsh g rnd a c = refPi (bitsOf w) (shiftOf w) g rnd a c := by
  obtain ⟨low, high⟩ := refPi_range (bitsOf w) (shiftOf w) g rnd a c
  rw [refPid, noD.refFilter_eq_zero, add_zero, clampTo_of_range low high]

/-- The registers but X2, DRAW and DFILT are left as PIUPD leaves them (R169). -/
theorem NoDerivative.refPidupd_eq_refPiupd (rnd : Bool) (dfsh : Nat) (a : Word) {r : Reg}
    (shared : r ≠ .x2 ∧ r ≠ .draw ∧ r ≠ .dfilt) :
    refPidupd (bitsOf w) (shiftOf w) dfsh g rnd a c r =
      refPiupd (bitsOf w) (shiftOf w) g rnd a c r := by
  obtain ⟨x2, draw, dfilt⟩ := shared
  rw [refPidupd, refPiupd, noD.refPid_eq_refPi, if_neg x2, if_neg draw, if_neg dfilt]

/-- PIDUPD with `M = 0` against PIUPD on the same channel, input, set and rounding (R169). -/
theorem NoDerivative.pidupd_piupd (rnd : Bool) (dfsh : Nat) (a : Word) {ch : Byte} {s : State}
    (hc : s.chans[ch.toNat]? = some c) :
    let t := onChannel ch (piupd w g rnd a) s
    let u := onChannel ch (pidupd w g rnd false dfsh a) s
    u.resp = t.resp
      ∧ u.reg? ch.toNat .x2 = some (((c.read .x1).setWidth (bitsOf w)).signExtend 32)
      ∧ u.reg? ch.toNat .draw = some 0 ∧ u.reg? ch.toNat .dfilt = some 0
      ∧ ∀ n r, n ≠ ch.toNat ∨ (r ≠ .x2 ∧ r ≠ .draw ∧ r ≠ .dfilt) → u.reg? n r = t.reg? n r := by
  intro t u
  obtain ⟨piResp, -, -, -, -, piRegs⟩ := piupd_updated w g rnd a hc
  obtain ⟨pidResp, -, -, -, -, pidRegs⟩ :=
    pidupd_updated_of_not_holds w g rnd dfsh a hc (not_refHolds_false c)
  refine ⟨?_, pidupd_reg w g rnd dfsh a hc .x2, ?_, ?_, fun n r shared => ?_⟩
  · rw [pidResp, piResp, noD.refPid_eq_refPi]
  · exact (pidupd_reg w g rnd dfsh a hc .draw).trans
      (congrArg (some ∘ bits32) (noD.refDraw_eq_zero a))
  · exact (pidupd_reg w g rnd dfsh a hc .dfilt).trans
      (congrArg (some ∘ bits32) (noD.refFilter_eq_zero dfsh a))
  · rw [pidRegs, piRegs]
    by_cases here : n = ch.toNat
    · rw [if_pos here, if_pos here,
        noD.refPidupd_eq_refPiupd rnd dfsh a (shared.resolve_left (absurd here))]
    · rw [if_neg here, if_neg here]

end

/-- Settles O28, at both word sizes; a `.Q31` pattern is zero where it reads as zero, and its
sign-extension is itself. -/
theorem pidupdWithoutDerivativeIsPiupd : Obligations.PidupdWithoutDerivativeIsPiupd := by
  constructor
  · intro g rnd ch a s c hc a0d a1d a2d dfilt
    have noD : NoDerivative .q15 g c := ⟨a0d, a1d, a2d, dfilt⟩
    exact ⟨_, _, rfl, rfl, noD.pidupd_piupd rnd s.dfsh a hc⟩
  · intro g rnd ch a s c hc a0d a1d a2d dfilt
    have zero : ∀ x : Word, x = 0 → signed 32 x = 0 := fun _ h => h ▸ rfl
    have noD : NoDerivative .q31 g c := ⟨zero _ a0d, zero _ a1d, zero _ a2d, zero _ dfilt⟩
    have whole : ((c.read .x1).setWidth 32).signExtend 32 = c.read .x1 := by simp
    obtain ⟨resp, x2, rest⟩ := noD.pidupd_piupd rnd s.dfsh a hc
    exact ⟨_, _, rfl, rfl, resp, x2.trans (congrArg some whole), rest⟩

end Sys2Proof.Machine
end

section
/-! PROOFS. 44_adc_convert.md: ADCQ. It is the saturating multiply of 41_multiply_abs.md on a sample
that `wrap` keeps to `W` bits, and the one instruction whose encoding bounds an operand. -/

namespace Sys2Proof

/-! ## Encodings -/

/-- The commands that decode to any instruction: those of `decode_eq_ok_iff_command`, or none where
an operand is out of bounds (30_encoding.md R75 (c)). -/
theorem decode_eq_ok_iff_wf_and_command {i : Instr} {hdr : Word} (hhdr : (encode i).hdr = hdr)
    (k : Command) :
    decode k = .ok i ↔ i.wf = true ∧
      k = { hdr := hdr
            a := if i.readsA then (encode i).a else k.a
            b := if i.readsB then (encode i).b else k.b
            c := if i.readsC then (encode i).c else k.c } := by
  constructor
  · intro decoded
    obtain ⟨hwf, -⟩ := (decode_eq_ok_iff_encode k i).mp decoded
    exact ⟨hwf, (decode_eq_ok_iff_command hwf hhdr k).mp decoded⟩
  · rintro ⟨hwf, command⟩
    exact (decode_eq_ok_iff_command hwf hhdr k).mpr command

/-- An ADCQ whose other fields are right is refused for a shift of the word size or more
(R75 (c)). -/
theorem decode_adcq_of_shiftBound_le {k : Command} {w : Bool} {sh : Byte}
    (fields : Header.ofWord k.hdr = { Header.ofOpcode .adcq with w := w, imm := sh })
    (large : Opcode.adcq.shiftBound w ≤ sh.toNat) : decode k = .error .adcShift := by
  have opcode : (Header.ofWord k.hdr).op = Opcode.adcq.byte := by rw [fields]; rfl
  rw [decode_of_opcode opcode, fields]
  cases w with
  | false => exact if_neg large.not_gt
  | true => exact if_neg large.not_gt

end Sys2Proof

namespace Sys2Proof.Machine

/-- The header of ADCQ.Q15 has `OP` 0x30 and the shift in IMM, every other field zero (R190). -/
theorem adcqQ15_hdr (sh : Byte) (a b c : Word) : (encode (.adcqQ15 sh a b c)).hdr =
    headerWord 0x30000000 false false false false 0 sh :=
  (headerWord_eq_toWord 0x30 false false false false false 0 sh).symm

/-- The header of ADCQ.Q31 has `W` set beside them (R190). -/
theorem adcqQ31_hdr (sh : Byte) (a b c : Word) : (encode (.adcqQ31 sh a b c)).hdr =
    headerWord 0x30800000 false false false false 0 sh :=
  (headerWord_eq_toWord 0x30 true false false false false 0 sh).symm

/-- What decodes to ADCQ.Q15: its header and all three operands, for a shift below 16 (R190). -/
theorem decode_eq_adcqQ15_iff (k : Command) (sh : Byte) (a b c : Word) :
    decode k = .ok (.adcqQ15 sh a b c) ↔
      sh.toNat < 16 ∧ k = ⟨headerWord 0x30000000 false false false false 0 sh, a, b, c⟩ :=
  (decode_eq_ok_iff_wf_and_command (adcqQ15_hdr sh a b c) k).trans
    (and_congr_left' decide_eq_true_iff)

/-- What decodes to ADCQ.Q31: its header and all three operands, for a shift below 32 (R190). -/
theorem decode_eq_adcqQ31_iff (k : Command) (sh : Byte) (a b c : Word) :
    decode k = .ok (.adcqQ31 sh a b c) ↔
      sh.toNat < 32 ∧ k = ⟨headerWord 0x30800000 false false false false 0 sh, a, b, c⟩ :=
  (decode_eq_ok_iff_wf_and_command (adcqQ31_hdr sh a b c) k).trans
    (and_congr_left' decide_eq_true_iff)

/-- An ADCQ.Q15 command with a shift of 16 or more is ILLEGAL_COMMAND (R190). -/
theorem runCommand_adcqQ15_of_large_shift {sh : Byte} (large : 16 ≤ sh.toNat) (a b c : Word)
    (s : State) : runCommand ⟨headerWord 0x30000000 false false false false 0 sh, a, b, c⟩ s =
      .next (s.rejected 1) :=
  runCommand_of_error (decode_adcq_of_shiftBound_le (w := false)
    ((header_eq_toWord_iff _ _).mp (adcqQ15_hdr sh a b c).symm) large) s

/-- An ADCQ.Q31 command with a shift of 32 or more is ILLEGAL_COMMAND (R190). -/
theorem runCommand_adcqQ31_of_large_shift {sh : Byte} (large : 32 ≤ sh.toNat) (a b c : Word)
    (s : State) : runCommand ⟨headerWord 0x30800000 false false false false 0 sh, a, b, c⟩ s =
      .next (s.rejected 1) :=
  runCommand_of_error (decode_adcq_of_shiftBound_le (w := true)
    ((header_eq_toWord_iff _ _).mp (adcqQ31_hdr sh a b c).symm) large) s

/-! ## The conversion -/

/-- The unsigned view of an operand is the unsigned reading of its low `W` bits (R13). -/
theorem uW_eq_toNat_setWidth (w : WordSize) (x : Word) :
    uW w x = (x.setWidth (bitsOf w)).toNat := by
  cases w with
  | q15 => rfl
  | q31 => rw [uW_q31_eq_toNat, bitsOf_q31, BitVec.setWidth_eq]

/-- `wrap` answers a signed value of its width, so the multiply of ADCQ has factors in range
(00_scope.md R12). -/
theorem wrap_range (n : Nat) (v : Int) : -(2 ^ (n - 1)) ≤ wrap n v ∧ wrap n v < 2 ^ (n - 1) :=
  ⟨BitVec.le_toInt _, BitVec.toInt_lt⟩

/-- The conversion is the saturating product of the kept sample and the slope, for every shift
(R190, R121). -/
theorem adcConvert_eq_refAdc (w : WordSize) (sh : Nat) (a b c : Word) :
    adcConvert w sh a b c = refAdc (bitsOf w) sh a b c := by
  rw [adcConvert, sW_eq_signed, sW_eq_signed, uW_eq_toNat_setWidth,
    mulSat_eq_refMulsat w (wrap_range _ _) (signed_range _ c)]
  rfl

/-- ADCQ with a shift below the word size answers the conversion and changes nothing else (R190). -/
theorem adcq_eq_answered (w : WordSize) {sh : Byte} (small : sh.toNat < bitsOf w) (a b c : Word)
    (s : State) :
    adcq w sh a b c s = s.answered (.ofInt 64 (refAdc (bitsOf w) sh.toNat a b c)) := by
  rw [adcq, if_pos small, respond_eq_answered, adcConvert_eq_refAdc]

/-- Settles O16: both forms are `adcq`, at their word sizes, and the decoder refuses the rest. -/
theorem adcqConvertsTheRawSample : Obligations.AdcqConvertsTheRawSample :=
  ⟨decode_eq_adcqQ15_iff, decode_eq_adcqQ31_iff,
    fun _ a b c s small => congrArg Host.Outcome.next (adcq_eq_answered .q15 small a b c s),
    fun _ a b c s small => congrArg Host.Outcome.next (adcq_eq_answered .q31 small a b c s),
    fun _ s hop nonzero => runCommand_of_reserved (op := .adcq) (by decide) hop nonzero s,
    fun _ a b c s large => runCommand_adcqQ15_of_large_shift large a b c s,
    fun _ a b c s large => runCommand_adcqQ31_of_large_shift large a b c s⟩

/-! ## The conversion without wrap -/

/-- A shifted sample that is a signed `n`-bit value is what `wrap` keeps of it (R190). -/
theorem refAdc_of_fits {n sh : Nat} {a b : Word} {t : Int} (hn : 1 ≤ n)
    (sample : t = ((a.setWidth n).toNat + signed n b) * 2 ^ sh) (low : -(2 ^ (n - 1)) ≤ t)
    (high : t < 2 ^ (n - 1)) (c : Word) : refAdc n sh a b c = refMulsat n t (signed n c) := by
  have kept : (BitVec.ofInt n t).toInt = t := wrap_of_range hn low high
  rw [refAdc, ← sample, kept]

/-- Settles O17: `adcq` at each word size, on a sample that fits. -/
theorem adcqIsExactWhenTheShiftedSampleFits : Obligations.AdcqIsExactWhenTheShiftedSampleFits := by
  constructor
  · intro sh a b c s t small sample low high
    rw [← refAdc_of_fits (n := 16) (by decide) sample low (Int.lt_add_one_of_le high) c]
    exact congrArg Host.Outcome.next (adcq_eq_answered .q15 small a b c s)
  · intro sh a b c s t small sample low high
    rw [← BitVec.setWidth_eq a] at sample
    rw [← refAdc_of_fits (n := 32) (by decide) sample low (Int.lt_add_one_of_le high) c]
    exact congrArg Host.Outcome.next (adcq_eq_answered .q31 small a b c s)

end Sys2Proof.Machine
end

section
/-! PROOFS. 45_register_access.md: RDREG and WRREG. What a register access does on a channel or an
index that does not exist is said here once, for both. -/

namespace Sys2Proof.Machine

/-! ## Rejections -/

/-- A register access on a channel from NCH on is BAD_CHANNEL, whatever the index (30_encoding.md
R78). -/
theorem withRegister_of_nch_le {s : State} {ch : Byte} (h : s.nch ≤ ch.toNat) (idx : Byte)
    (k : Channel → Reg → State → State) : withRegister ch idx k s = s.rejected 2 :=
  withRegister_of_none idx ((chan_missing_iff s _).mp h) k

/-- A register access on a channel that exists with an index above 21 is BAD_REGISTER (R78). -/
theorem withRegister_of_lt_index {s : State} {ch idx : Byte} (hch : ch.toNat < s.nch)
    (hidx : 21 < idx.toNat) (k : Channel → Reg → State → State) :
    withRegister ch idx k s = s.rejected 3 := by
  obtain ⟨c, hc⟩ := (chan_exists_iff s _).mp hch
  exact withRegister_of_bad hc (ofIndex_of_ge hidx) k

/-! ## RDREG -/

/-- The header of RDREG has `OP` 0x40, CH and the index in IMM, every other field zero
(45_register_access.md R201). -/
theorem rdreg_hdr (ch idx : Byte) :
    (encode (.rdreg ch idx)).hdr = headerWord 0x40000000 false false false false ch idx :=
  (headerWord_eq_toWord 0x40 false false false false false ch idx).symm

/-- RDREG on a channel and an index that exist answers the pattern of the register with that index,
and only the response changes (R201). -/
theorem exec_rdreg_of_index_le {s : State} {ch idx : Byte} (hch : ch.toNat < s.nch)
    (hidx : idx.toNat ≤ 21) : ∃ (r : Reg) (v : Word), r.index = idx.toNat
      ∧ s.reg? ch.toNat r = some v
      ∧ exec (.rdreg ch idx) s = .next (s.answered (v.setWidth 64)) := by
  obtain ⟨c, hc⟩ := (chan_exists_iff s _).mp hch
  obtain ⟨r, hr, index⟩ := ofIndex_of_lt (Nat.lt_succ_of_le hidx)
  have holds : s.reg? ch.toNat r = some (c.read r) := reg_of_chans hc r
  exact ⟨r, c.read r, index, holds, exec_rdreg_of_reg hr holds⟩

/-- Settles O31: the read of the register its index names, and the rejections in the order of the
checks. -/
theorem rdregAnswersTheRawPattern : Obligations.RdregAnswersTheRawPattern :=
  ⟨fun k ch idx => decode_eq_ok_iff_command rfl (rdreg_hdr ch idx) k,
    fun _ _ _ hch hidx => exec_rdreg_of_index_le hch hidx,
    fun _ s hop nonzero => runCommand_of_reserved (op := .rdreg) (by decide) hop nonzero s,
    fun _ idx _ h => congrArg Host.Outcome.next (withRegister_of_nch_le h idx _),
    fun _ _ _ hch hidx => congrArg Host.Outcome.next (withRegister_of_lt_index hch hidx _)⟩

/-! ## WRREG -/

/-- The header of WRREG has `OP` 0x41, CH and the index in IMM, every other field zero (R202). -/
theorem wrreg_hdr (ch idx : Byte) (a : Word) :
    (encode (.wrreg ch idx a)).hdr = headerWord 0x41000000 false false false false ch idx :=
  (headerWord_eq_toWord 0x41 false false false false false ch idx).symm

/-- Replacing a channel that exists and answering: the registers of the new channel, and nothing
else changed (20_memory.md R58). -/
theorem setChannel_answered_updated {s : State} {ch : Byte} {c₀ : Channel}
    (hc : s.chans[ch.toNat]? = some c₀) (c : Channel) (res : BitVec 64) :
    s.Updated ((setChannel ch c s).answered res) ch res c.read :=
  ⟨rfl, setChannel_nch ch c s, rfl, rfl, rfl, setChannel_reg hc c⟩

/-- The channel after a register is written, with the register known by its index: the whole pattern
there, the old one in every other register (R53). -/
theorem channel_read_write_of_index {r : Reg} {n : Nat} (index : r.index = n) (c : Channel)
    (v : Word) : (c.write r v).read = fun q => if q.index = n then v else c.read q := by
  funext q
  have named : q.index = n ↔ q = r :=
    ⟨fun h => index_injective (h.trans index.symm), fun h => h ▸ index⟩
  simp only [channel_read_write, named]

/-- WRREG on a channel and an index that exist leaves the operand in the register with that index,
answers 0, and changes nothing else (R202). -/
theorem exec_wrreg_updated {s : State} {ch idx : Byte} {c : Channel}
    (hc : s.chans[ch.toNat]? = some c) (hidx : idx.toNat ≤ 21) (a : Word) :
    ∃ t, exec (.wrreg ch idx a) s = .next t
      ∧ s.Updated t ch 0 (fun r => if r.index = idx.toNat then a else c.read r) := by
  obtain ⟨r, hr, index⟩ := ofIndex_of_lt (Nat.lt_succ_of_le hidx)
  rw [← channel_read_write_of_index index c a]
  exact ⟨_, exec_wrreg_of_chan hc hr a, setChannel_answered_updated hc (c.write r a) 0⟩

/-- Settles O32: the write of the register its index names, and the rejections in the order of the
checks. -/
theorem wrregReplacesOneRegister : Obligations.WrregReplacesOneRegister :=
  ⟨fun k ch idx a => decode_eq_ok_iff_command rfl (wrreg_hdr ch idx a) k,
    fun _ _ a _ _ hc hidx => exec_wrreg_updated hc hidx a,
    fun _ s hop nonzero => runCommand_of_reserved (op := .wrreg) (by decide) hop nonzero s,
    fun _ idx _ _ h => congrArg Host.Outcome.next (withRegister_of_nch_le h idx _),
    fun _ _ _ _ hch hidx => congrArg Host.Outcome.next (withRegister_of_lt_index hch hidx _)⟩

end Sys2Proof.Machine
end

section
/-! PROOFS. 60_exceptions.md: the STATUS of a command by the opcode table, what a rejection leaves
unchanged, and the idle step. -/

namespace Sys2Proof

/-! ## The checks of an instruction -/

/-- Steps (3) and (4) of the decode order (30_encoding.md R78) on an instruction, for a block of
`nch` channels: the channel if `CH` is used, then the index of a register access. -/
def Instr.checkStatus (i : Instr) (nch : Nat) : BitVec 4 :=
  if i.opcode.usesCh = true ∧ nch ≤ i.header.ch.toNat then 2
  else if (i.opcode.usesCh && i.opcode.usesImm) = true ∧ 21 < i.header.imm.toNat then 3
  else 0

/-- An opcode that uses no `CH` has no check left. -/
theorem checkStatus_of_no_channel {i : Instr} (h : i.opcode.usesCh = false) (nch : Nat) :
    i.checkStatus nch = 0 := by
  simp [Instr.checkStatus, h]

/-- An opcode that uses `CH` and not IMM has its channel checked. -/
theorem checkStatus_of_channel {i : Instr} (hch : i.opcode.usesCh = true)
    (himm : i.opcode.usesImm = false) (nch : Nat) :
    i.checkStatus nch = if nch ≤ i.header.ch.toNat then 2 else 0 := by
  simp [Instr.checkStatus, hch, himm]

/-- An opcode that uses both has its channel checked, then the index. -/
theorem checkStatus_of_register {i : Instr} (hch : i.opcode.usesCh = true)
    (himm : i.opcode.usesImm = true) (nch : Nat) :
    i.checkStatus nch =
      if nch ≤ i.header.ch.toNat then 2 else if 21 < i.header.imm.toNat then 3 else 0 := by
  simp [Instr.checkStatus, hch, himm]

/-! ## The row of an instruction -/

/-- An instruction is of the form of its opcode and its word size. -/
theorem instr_form_mem (i : Instr) : (i.opcode, i.header.w) ∈ opcodeForms :=
  (mem_opcodeForms_iff _ _).mpr ((header_fits_iff _ _).mp (instr_header_fits i)).1

/-- The fields that the decoder reads from an encoding are those the encoder wrote. -/
theorem header_ofWord_encode (i : Instr) : Header.ofWord (encode i).hdr = i.header :=
  header_ofWord_toWord i.header

/-- `CH` of an encoding. -/
theorem encode_ch (i : Instr) : (encode i).hdr.extractLsb' 8 8 = i.header.ch :=
  congrArg Header.ch (header_ofWord_encode i)

/-- IMM of an encoding. -/
theorem encode_imm (i : Instr) : (encode i).hdr.extractLsb' 0 8 = i.header.imm :=
  congrArg Header.imm (header_ofWord_encode i)

/-- The row of that form accepts the header of a well-formed instruction. -/
theorem formRow_accepts_encode {i : Instr} (hwf : i.wf = true) :
    (formRow (i.opcode, i.header.w)).accepts (encode i).hdr = true := by
  have bound : i.header.imm.toNat < i.opcode.shiftBound i.header.w :=
    (opcode_instr_isOk_iff _ _ (encode i)).mp
      ⟨i, opcode_instr_header hwf (instr_readsFrom_encode i)⟩
  rw [Machine.OpcodeRow.accepts, Bool.and_eq_true, decide_eq_true_iff, decide_eq_true_iff,
    formRow_matches_iff _ (instr_form_mem i), header_ofWord_encode, encode_imm]
  exact ⟨⟨instr_header_op i, rfl, instr_header_fits i⟩, bound⟩

end Sys2Proof

namespace Sys2Proof.Machine

/-! ## The STATUS by the opcode table -/

/-- A header that a row accepts matches the row. -/
theorem matches_of_accepts {row : OpcodeRow} {hdr : Word} (h : row.accepts hdr = true) :
    hdr &&& row.mask = row.value :=
  of_decide_eq_true (Bool.and_eq_true_iff.mp h).1

/-- The search of the opcode table finds the row of a form that accepts the header: there is no
other (R78). -/
theorem find_opcodeTable_of_accepts {hdr : Word} {f : Opcode × Bool} (hf : f ∈ opcodeForms)
    (accepted : (formRow f).accepts hdr = true) :
    opcodeTable.find? (·.accepts hdr) = some (formRow f) := by
  have mem : formRow f ∈ opcodeTable := opcodeTable_eq_map ▸ List.mem_map_of_mem hf
  obtain ⟨row, found⟩ : ∃ row, opcodeTable.find? (·.accepts hdr) = some row :=
    Option.isSome_iff_exists.mp (List.find?_isSome.mpr ⟨formRow f, mem, accepted⟩)
  have row_mem : row ∈ opcodeForms.map formRow :=
    opcodeTable_eq_map ▸ List.mem_of_find?_eq_some found
  have row_accepts : row.accepts hdr = true :=
    List.find?_some (p := fun r : OpcodeRow => r.accepts hdr) found
  obtain ⟨g, hg, rfl⟩ := List.mem_map.mp row_mem
  rw [found, form_unique hg hf (matches_of_accepts row_accepts) (matches_of_accepts accepted)]

/-- On the header of a well-formed instruction the table gives the STATUS of its checks. -/
theorem refStatus_encode {i : Instr} (hwf : i.wf = true) (nch : Nat) :
    refStatus nch (encode i).hdr = i.checkStatus nch := by
  have found := find_opcodeTable_of_accepts (instr_form_mem i) (formRow_accepts_encode hwf)
  simp only [refStatus, found, encode_ch, encode_imm]
  rfl

/-- On the header of an illegal command the table gives ILLEGAL_COMMAND: no row accepts it. -/
theorem refStatus_of_illegal {k : Command} {e : Illegal} (h : decode k = .error e) (nch : Nat) :
    refStatus nch k.hdr = 1 := by
  have none_accepts : opcodeTable.find? (·.accepts k.hdr) = none := by
    refine List.find?_eq_none.mpr fun row mem accepted => ?_
    obtain ⟨i, decoded⟩ := (decodeAcceptsExactlyTheOpcodeTable.1 k).mpr ⟨row, mem, accepted⟩
    cases h.symm.trans decoded
  simp only [refStatus, none_accepts]

/-! ## The STATUS a command answers -/

/-- The state holds a response with the STATUS. -/
def State.HasStatus (t : State) (code : BitVec 4) : Prop := ∃ r, t.resp = some r ∧ r.status = code

/-- A controller command checks its channel, and nothing else (30_encoding.md R78). -/
theorem onChannel_hasStatus (s : State) (ch : Byte) (f : Channel → Channel × Int) :
    (onChannel ch f s).HasStatus (if s.nch ≤ ch.toNat then 2 else 0) := by
  by_cases missing : s.nch ≤ ch.toNat
  · rw [if_pos missing, onChannel_of_nch_le missing]
    exact ⟨_, rfl, rfl⟩
  · obtain ⟨c, hc⟩ := (chan_exists_iff s _).mp (not_le.mp missing)
    rw [if_neg missing, onChannel_of_some hc]
    exact ⟨_, rfl, rfl⟩

/-- A register access checks the channel first, then the index, and is executed if both exist
(R78). -/
theorem withRegister_hasStatus (s : State) (ch idx : Byte) {k : Channel → Reg → State → State}
    (executed : ∀ c r, (k c r s).HasStatus 0) :
    (withRegister ch idx k s).HasStatus
      (if s.nch ≤ ch.toNat then 2 else if 21 < idx.toNat then 3 else 0) := by
  by_cases missing : s.nch ≤ ch.toNat
  · rw [if_pos missing, withRegister_of_nch_le missing]
    exact ⟨_, rfl, rfl⟩
  rw [if_neg missing]
  by_cases large : 21 < idx.toNat
  · rw [if_pos large, withRegister_of_lt_index (not_le.mp missing) large]
    exact ⟨_, rfl, rfl⟩
  · obtain ⟨c, hc⟩ := (chan_exists_iff s _).mp (not_le.mp missing)
    obtain ⟨r, hr, -⟩ := ofIndex_of_lt (Nat.lt_succ_of_le (not_lt.mp large))
    rw [if_neg large, withRegister_of_some hc hr]
    exact executed c r

/-- A well-formed instruction answers the STATUS of its checks. -/
theorem exec_hasStatus {i : Instr} (hwf : i.wf = true) (s : State) :
    ∃ t, exec i s = .next t ∧ t.HasStatus (i.checkStatus s.nch) := by
  cases i with
  | piinitQ15 _ _ ch | piinitQ31 _ _ ch | piupdQ15 _ _ ch | piupdQ31 _ _ ch
  | pidinitQ15 _ _ ch | pidinitQ31 _ _ ch | pidupdQ15 _ _ _ ch | pidupdQ31 _ _ _ ch =>
    rw [checkStatus_of_channel rfl rfl]
    exact ⟨_, rfl, onChannel_hasStatus s ch _⟩
  | rdreg ch idx =>
    rw [checkStatus_of_register rfl rfl]
    exact ⟨_, rfl, withRegister_hasStatus s ch idx fun _ _ => ⟨_, rfl, rfl⟩⟩
  | wrreg ch idx a =>
    rw [checkStatus_of_register rfl rfl]
    exact ⟨_, rfl, withRegister_hasStatus s ch idx fun _ _ => ⟨_, rfl, rfl⟩⟩
  | adcqQ15 sh a b c =>
    have answered := adcq_eq_answered .q15 (of_decide_eq_true hwf) a b c s
    rw [checkStatus_of_no_channel rfl]
    exact ⟨_, congrArg Host.Outcome.next answered, _, rfl, rfl⟩
  | adcqQ31 sh a b c =>
    have answered := adcq_eq_answered .q31 (of_decide_eq_true hwf) a b c s
    rw [checkStatus_of_no_channel rfl]
    exact ⟨_, congrArg Host.Outcome.next answered, _, rfl, rfl⟩
  | _ =>
    rw [checkStatus_of_no_channel rfl]
    exact ⟨_, rfl, _, rfl, rfl⟩

/-- Settles O34: an illegal command matches no row, and any other has the header of the instruction
it decodes to. -/
theorem statusFollowsTheOrderOfChecks : Obligations.StatusFollowsTheOrderOfChecks := by
  intro k s
  cases hk : decode k with
  | error e => exact ⟨_, _, runCommand_of_error hk s, rfl, (refStatus_of_illegal hk s.nch).symm⟩
  | ok i =>
    obtain ⟨hwf, hdr, -⟩ := (decode_eq_ok_iff_encode k i).mp hk
    obtain ⟨t, executed, r, answered, status⟩ := exec_hasStatus hwf s
    rw [← hdr, refStatus_encode hwf]
    exact ⟨t, r, (runCommand_of_ok hk s).trans executed, answered, status⟩

/-! ## Rejections -/

/-- An instruction that answers another STATUS than 0 has done nothing but reject (60_exceptions.md
R212). -/
theorem exec_eq_rejected {i : Instr} {s t : State} {r : Response} (h : exec i s = .next t)
    (hr : t.resp = some r) (failed : r.status ≠ 0) : t = s.rejected r.status := by
  obtain ⟨code, -, rejects⟩ | ⟨res, answers⟩ | ⟨ch, c, c', res, -, -, answers⟩ := exec_outcome i s
  · cases rejects.symm.trans h
    cases hr
    rfl
  all_goals
    cases answers.symm.trans h
    cases hr
    exact absurd rfl failed

/-- Settles O35, for the decoder's rejections and for those of an instruction. -/
theorem rejectedCommandChangesNothing : Obligations.RejectedCommandChangesNothing := by
  intro k s t r hrun hr failed
  cases hk : decode k with
  | error e =>
    cases (runCommand_of_error hk s).symm.trans hrun
    cases hr
    rfl
  | ok i => exact exec_eq_rejected ((runCommand_of_ok hk s).symm.trans hrun) hr failed

/-! ## The idle step -/

/-- Settles O40: the step on an empty port is `idle`, which changes the response alone. -/
theorem idleStepHoldsTheRegisters : Obligations.IdleStepHoldsTheRegisters :=
  fun _ => step_of_empty

end Sys2Proof.Machine
end

section
/-! PROOFS. 70_reset_and_hazards.md: the Reset event, and where a gain is written and seen. -/

namespace Sys2Proof.Machine

/-! ## The Reset event -/

/-- Settles O41: a Reset event replaces patterns alone, and what names no channel reads none
(70_reset_and_hazards.md R240, R241). -/
theorem resetEventLeavesTheBlockReady : Obligations.ResetEventLeavesTheBlockReady := by
  intro rest s presented
  refine ⟨_, step_of_reset presented, applyReset_nch _, rfl, rfl, rfl, fun n r => ?registers,
    fun i stateless u v before after => ?answers⟩
  case registers =>
    rw [applyReset_reg, Option.isSome_map]
    rfl
  case answers =>
    obtain ⟨answer, answers⟩ := statelessCommandsReadAndWriteNoRegister i stateless
    cases (answers _).symm.trans before
    cases (answers _).symm.trans after
    rfl

/-! ## Gain registers -/

/-- The registers KP, KI and KD of either set (10_state.md R25). -/
def Reg.isGain : Reg → Bool
  | .gain _ .kp | .gain _ .ki | .gain _ .kd => true
  | .gain _ .a0 | .gain _ .a1 | .gain _ .a0d | .gain _ .a1d | .gain _ .a2d
  | .x1 | .x2 | .y1 | .draw | .dfilt | .mask => false

/-- The other registers, as `State.SameButGains` names them. -/
theorem isGain_eq_false_iff (r : Reg) :
    r.isGain = false ↔ ∀ g, r ≠ .gain g .kp ∧ r ≠ .gain g .ki ∧ r ≠ .gain g .kd := by
  cases r with
  | gain g q => cases q <;> simp [Reg.isGain]
  | _ => simp [Reg.isGain]

/-! ## What writes a gain -/

/-- Every gain of `d` is as in `c`. -/
def Channel.GainsKept (c d : Channel) : Prop := ∀ r, r.isGain = true → d.read r = c.read r

/-- A channel that nothing was written to. -/
theorem Channel.GainsKept.refl (c : Channel) : c.GainsKept c := fun _ _ => rfl

/-- One more write, to a register that is no gain. -/
theorem Channel.GainsKept.write {c d : Channel} (h : c.GainsKept d) {r : Reg}
    (other : r.isGain = false) (v : Word) : c.GainsKept (d.write r v) := by
  intro q gain
  rw [channel_read_write, if_neg (by rintro rfl; simp [other] at gain)]
  exact h q gain

/-- One more signed result, to a register that is no gain. -/
theorem Channel.GainsKept.wr {c d : Channel} (h : c.GainsKept d) {r : Reg}
    (other : r.isGain = false) (v : Int) : c.GainsKept (d.wr r v) :=
  h.write other (bits32 v)

/-- Deriving A0 and A1 (42_pi_controller.md R140). -/
theorem piCoefficients_gainsKept (w : WordSize) (g : GainSet) (c : Channel) :
    c.GainsKept (piCoefficients w g c) :=
  ((Channel.GainsKept.refl c).wr (r := .gain g .a0) rfl _).wr (r := .gain g .a1) rfl _

/-- PIINIT (R140). -/
theorem piinit_gainsKept (w : WordSize) (g : GainSet) (rst : Bool) (c : Channel) :
    c.GainsKept (piinit w g rst c).1 := by
  have coefficients := piCoefficients_gainsKept w g c
  cases rst with
  | false => exact coefficients
  | true => exact (coefficients.write (r := .x1) rfl 0).write (r := .y1) rfl 0

/-- PIUPD (R141). -/
theorem piupd_gainsKept (w : WordSize) (g : GainSet) (rnd : Bool) (a : Word) (c : Channel) :
    c.GainsKept (piupd w g rnd a c).1 :=
  ((Channel.GainsKept.refl c).wr (r := .x1) rfl _).wr (r := .y1) rfl _

/-- PIDINIT (43_pid_controller.md R160). -/
theorem pidinit_gainsKept (w : WordSize) (g : GainSet) (rst : Bool) (c : Channel) :
    c.GainsKept (pidinit w g rst c).1 := by
  have coefficients : c.GainsKept (pidCoefficients w g (piCoefficients w g c)) :=
    (((piCoefficients_gainsKept w g c).wr (r := .gain g .a0d) rfl _).wr (r := .gain g .a1d)
      rfl _).wr (r := .gain g .a2d) rfl _
  cases rst with
  | false => exact coefficients
  | true =>
    exact ((((coefficients.write (r := .x1) rfl 0).write (r := .x2) rfl 0).write (r := .y1)
      rfl 0).write (r := .draw) rfl 0).write (r := .dfilt) rfl 0

/-- PIDUPD (R161): a held sample writes MASK, a computed one the state vector. -/
theorem pidupd_gainsKept (w : WordSize) (g : GainSet) (rnd m : Bool) (dfsh : Nat) (a : Word)
    (c : Channel) : c.GainsKept (pidupd w g rnd m dfsh a c).1 := by
  have start := Channel.GainsKept.refl c
  by_cases holds : refHolds m c
  · rw [pidupd_of_holds w g rnd dfsh a holds]
    exact start.wr (r := .mask) rfl _
  · rw [pidupd_of_not_holds w g rnd dfsh a holds]
    exact ((((start.wr (r := .x2) rfl _).wr (r := .x1) rfl _).wr (r := .y1) rfl _).wr
      (r := .draw) rfl _).wr (r := .dfilt) rfl _

/-- Every gain of every channel of `t` is as in `s`. -/
def State.GainsKept (s t : State) : Prop :=
  ∀ n r, r.isGain = true → t.reg? n r = s.reg? n r

/-- From the channel to the state: a controller command that keeps the gains of its channel keeps
those of the register file. -/
theorem onChannel_gainsKept {f : Channel → Channel × Int}
    (hf : ∀ c : Channel, c.GainsKept (f c).1) (ch : Byte) (s : State) :
    s.GainsKept (onChannel ch f s) := by
  intro n r gain
  by_cases hn : n = ch.toNat
  · subst hn
    obtain ⟨-, rejected⟩ | ⟨c, hc, answered⟩ := onChannel_outcome s ch f
    · rw [rejected, rejected_reg]
    · rw [answered, answered_reg, setChannel_reg hc, if_pos rfl, reg_of_chans hc, hf c r gain]
  · obtain ⟨-, -, -, -, others⟩ := onChannel_frame s ch f
    exact others n r hn

/-- RDREG changes the response alone (45_register_access.md R201). -/
theorem rdreg_response (ch idx : Byte) (s : State) :
    ∃ r : Response, exec (.rdreg ch idx) s = .next { s with resp := some r } := by
  cases hc : s.chans[ch.toNat]? with
  | none => exact ⟨_, congrArg Host.Outcome.next (withRegister_of_none idx hc _)⟩
  | some c =>
    cases hr : Reg.ofIndex idx with
    | none => exact ⟨_, congrArg Host.Outcome.next (withRegister_of_bad hc hr _)⟩
    | some r => exact ⟨_, congrArg Host.Outcome.next (withRegister_of_some hc hr _)⟩

/-- A command that names no channel keeps every gain: it writes no register (10_state.md R20). -/
theorem exec_gainsKept_of_no_channel {i : Instr} {s t : State} (stateless : i.channel? = none)
    (ht : exec i s = .next t) : s.GainsKept t := by
  obtain ⟨r, answers⟩ := statelessCommandsReadAndWriteNoRegister i stateless
  cases (answers s).symm.trans ht
  exact fun _ _ _ => rfl

/-- An instruction other than WRREG keeps every gain: the controller commands write other registers,
and the rest writes none (10_state.md R25). -/
theorem exec_gainsKept {i : Instr} {s t : State} (not_wrreg : ∀ ch idx a, i ≠ .wrreg ch idx a)
    (ht : exec i s = .next t) : s.GainsKept t := by
  cases i with
  | wrreg ch idx a => exact absurd rfl (not_wrreg ch idx a)
  | piinitQ15 g rst ch | piinitQ31 g rst ch =>
    cases ht
    exact onChannel_gainsKept (piinit_gainsKept _ g rst) ch s
  | piupdQ15 g rnd ch a | piupdQ31 g rnd ch a =>
    cases ht
    exact onChannel_gainsKept (piupd_gainsKept _ g rnd a) ch s
  | pidinitQ15 g rst ch | pidinitQ31 g rst ch =>
    cases ht
    exact onChannel_gainsKept (pidinit_gainsKept _ g rst) ch s
  | pidupdQ15 g rnd m ch a | pidupdQ31 g rnd m ch a =>
    cases ht
    exact onChannel_gainsKept (pidupd_gainsKept _ g rnd m _ a) ch s
  | rdreg ch idx =>
    obtain ⟨r, answers⟩ := rdreg_response ch idx s
    cases answers.symm.trans ht
    exact fun _ _ _ => rfl
  | _ => exact exec_gainsKept_of_no_channel rfl ht

/-! ## Channels that differ in gains alone -/

/-- The two channels agree on every register but the gains. -/
def Channel.SameButGains (c d : Channel) : Prop := ∀ r, r.isGain = false → c.read r = d.read r

section
variable {c d : Channel} (same : c.SameButGains d)
include same

/-- A signed reading of a register that is no gain. -/
theorem Channel.SameButGains.rd (w : WordSize) {r : Reg} (other : r.isGain = false) :
    c.rd w r = d.rd w r :=
  congrArg (sW w) (same r other)

/-- The same write to both. -/
theorem Channel.SameButGains.write (r : Reg) (v : Word) :
    (c.write r v).SameButGains (d.write r v) := by
  intro q other
  rw [channel_read_write, channel_read_write, same q other]

/-- The same signed result to both. -/
theorem Channel.SameButGains.wr (r : Reg) (v : Int) : (c.wr r v).SameButGains (d.wr r v) :=
  same.write r (bits32 v)

/-- The proportional+integral branch reads coefficients and state, and no gain
(42_pi_controller.md R141). -/
theorem piBranch_of_sameButGains (w : WordSize) (g : GainSet) (rnd : Bool) (x : Int) :
    piBranch w g rnd x c = piBranch w g rnd x d := by
  simp only [piBranch, same.rd w (r := .gain g .a0) rfl, same.rd w (r := .gain g .a1) rfl,
    same.rd w (r := .x1) rfl, same.rd w (r := .y1) rfl]

/-- So does the raw derivative (43_pid_controller.md R163). -/
theorem rawDerivative_of_sameButGains (w : WordSize) (g : GainSet) (x : Int) :
    rawDerivative w g x c = rawDerivative w g x d := by
  simp only [rawDerivative, same.rd w (r := .gain g .a0d) rfl, same.rd w (r := .gain g .a1d) rfl,
    same.rd w (r := .gain g .a2d) rfl, same.rd w (r := .x1) rfl, same.rd w (r := .x2) rfl]

end

/-- The operation answers alike on channels that differ in gains alone, and leaves them so. -/
def IgnoresGains (f : Channel → Channel × Int) : Prop :=
  ∀ c d : Channel, c.SameButGains d → (f c).1.SameButGains (f d).1 ∧ (f c).2 = (f d).2

/-- PIUPD (42_pi_controller.md R141). -/
theorem piupd_ignoresGains (w : WordSize) (g : GainSet) (rnd : Bool) (a : Word) :
    IgnoresGains (piupd w g rnd a) := by
  intro c d same
  simp only [piupd, piBranch_of_sameButGains same, and_true]
  exact (same.wr .x1 _).wr .y1 _

/-- A held sample (43_pid_controller.md R166). -/
theorem pidHold_ignoresGains (w : WordSize) : IgnoresGains (pidHold w) := by
  intro c d same
  simp only [pidHold, same .mask rfl]
  exact ⟨same.wr .mask _, same.rd w rfl⟩

/-- A computed sample (R161). -/
theorem pidCompute_ignoresGains (w : WordSize) (g : GainSet) (rnd : Bool) (dfsh : Nat) (a : Word) :
    IgnoresGains (pidCompute w g rnd dfsh a) := by
  intro c d same
  simp only [pidCompute, piBranch_of_sameButGains same, rawDerivative_of_sameButGains same,
    same.rd w (r := .x1) rfl, same.rd w (r := .dfilt) rfl, and_true]
  exact ((((same.wr .x2 _).wr .x1 _).wr .y1 _).wr .draw _).wr .dfilt _

/-- PIDUPD (R161): both channels hold or both compute, since MASK is no gain. -/
theorem pidupd_ignoresGains (w : WordSize) (g : GainSet) (rnd m : Bool) (dfsh : Nat) (a : Word) :
    IgnoresGains (pidupd w g rnd m dfsh a) := by
  intro c d same
  have holds_iff : refHolds m c ↔ refHolds m d := by rw [refHolds, refHolds, same .mask rfl]
  by_cases holds : refHolds m c
  · rw [pidupd_of_holds w g rnd dfsh a holds, pidupd_of_holds w g rnd dfsh a (holds_iff.mp holds)]
    exact pidHold_ignoresGains w c d same
  · rw [pidupd_of_not_holds w g rnd dfsh a holds,
      pidupd_of_not_holds w g rnd dfsh a (mt holds_iff.mpr holds)]
    exact pidCompute_ignoresGains w g rnd dfsh a c d same

/-! ## States that differ in gains alone -/

/-- Two states with the same response that differ in gains alone. -/
def State.AlikeButGains (t₁ t₂ : State) : Prop := t₁.resp = t₂.resp ∧ t₁.SameButGains t₂

section
variable {s₁ s₂ : State} (same : s₁.SameButGains s₂)
include same

/-- A channel exists in both states, and differs in gains alone, or in neither. -/
theorem State.SameButGains.chans (n : Nat) :
    (s₁.chans[n]? = none ∧ s₂.chans[n]? = none)
      ∨ ∃ c d, s₁.chans[n]? = some c ∧ s₂.chans[n]? = some d ∧ c.SameButGains d := by
  obtain ⟨nch, -, regs⟩ := same
  by_cases missing : s₁.nch ≤ n
  · exact .inl ⟨(chan_missing_iff s₁ n).mp missing, (chan_missing_iff s₂ n).mp (nch ▸ missing)⟩
  · obtain ⟨c, hc⟩ := (chan_exists_iff s₁ n).mp (not_le.mp missing)
    obtain ⟨d, hd⟩ := (chan_exists_iff s₂ n).mp (nch ▸ not_le.mp missing)
    refine .inr ⟨c, d, hc, hd, fun r other => ?_⟩
    have agree := regs n r ((isGain_eq_false_iff r).mp other)
    rwa [reg_of_chans hc, reg_of_chans hd, Option.some.injEq] at agree

/-- Replacing an existing channel by channels that differ in gains alone, and answering alike. -/
theorem respond_setChannel_alikeButGains {ch : Byte} {c₁ c₂ c d : Channel}
    (hc : s₁.chans[ch.toNat]? = some c₁) (hd : s₂.chans[ch.toNat]? = some c₂)
    (new : c.SameButGains d) (v : Int) :
    (respond v (setChannel ch c s₁)).AlikeButGains (respond v (setChannel ch d s₂)) := by
  obtain ⟨nch, dfsh, regs⟩ := same
  refine ⟨rfl, (setChannel_nch ch c s₁).trans (nch.trans (setChannel_nch ch d s₂).symm), dfsh,
    fun n r other => ?_⟩
  rw [respond_reg, respond_reg, setChannel_reg hc, setChannel_reg hd, regs n r other,
    new r ((isGain_eq_false_iff r).mpr other)]

/-- A controller command that ignores gains. -/
theorem onChannel_alikeButGains {f : Channel → Channel × Int} (hf : IgnoresGains f) (ch : Byte) :
    (onChannel ch f s₁).AlikeButGains (onChannel ch f s₂) := by
  obtain ⟨none₁, none₂⟩ | ⟨c, d, hc, hd, alike⟩ := same.chans ch.toNat
  · rw [onChannel_of_none none₁, onChannel_of_none none₂]
    exact ⟨rfl, same⟩
  · obtain ⟨new, answer⟩ := hf c d alike
    rw [onChannel_of_some hc, onChannel_of_some hd, answer]
    exact respond_setChannel_alikeButGains same hc hd new (f d).2

/-- WRREG: both states get the same pattern in the same register, which may be a gain
(45_register_access.md R202). -/
theorem wrreg_alikeButGains (ch idx : Byte) (a : Word) :
    ∃ t₁ t₂, exec (.wrreg ch idx a) s₁ = .next t₁ ∧ exec (.wrreg ch idx a) s₂ = .next t₂
      ∧ t₁.AlikeButGains t₂ := by
  refine ⟨_, _, rfl, rfl, ?_⟩
  obtain ⟨none₁, none₂⟩ | ⟨c, d, hc, hd, alike⟩ := same.chans ch.toNat
  · rw [withRegister_of_none idx none₁, withRegister_of_none idx none₂]
    exact ⟨rfl, same⟩
  cases hr : Reg.ofIndex idx with
  | none =>
    rw [withRegister_of_bad hc hr, withRegister_of_bad hd hr]
    exact ⟨rfl, same⟩
  | some r =>
    rw [withRegister_of_some hc hr, withRegister_of_some hd hr]
    exact respond_setChannel_alikeButGains same hc hd (alike.write r a) 0

/-- A command that names no channel: it reads and writes no register (10_state.md R20). -/
theorem exec_alikeButGains_of_no_channel {i : Instr} (stateless : i.channel? = none) :
    ∃ t₁ t₂, exec i s₁ = .next t₁ ∧ exec i s₂ = .next t₂ ∧ t₁.AlikeButGains t₂ := by
  obtain ⟨r, answers⟩ := statelessCommandsReadAndWriteNoRegister i stateless
  exact ⟨_, _, answers s₁, answers s₂, rfl, same⟩

/-- An instruction that reads no gain answers alike, and the states still differ in gains alone
(70_reset_and_hazards.md R251). -/
theorem exec_alikeButGains {i : Instr} (reads : i.readsGains = false) :
    ∃ t₁ t₂, exec i s₁ = .next t₁ ∧ exec i s₂ = .next t₂ ∧ t₁.AlikeButGains t₂ := by
  have ⟨_, dfsh, _⟩ := same
  cases i with
  | piinitQ15 | piinitQ31 | pidinitQ15 | pidinitQ31 | rdreg => cases reads
  | piupdQ15 g rnd ch a | piupdQ31 g rnd ch a =>
    exact ⟨_, _, rfl, rfl, onChannel_alikeButGains same (piupd_ignoresGains _ g rnd a) ch⟩
  | pidupdQ15 g rnd m ch a | pidupdQ31 g rnd m ch a =>
    exact ⟨_, _, rfl, rfl,
      dfsh ▸ onChannel_alikeButGains same (pidupd_ignoresGains _ g rnd m s₁.dfsh a) ch⟩
  | wrreg ch idx a => exact wrreg_alikeButGains same ch idx a
  | _ => exact exec_alikeButGains_of_no_channel same rfl

end

/-- Settles O47: the first clause is `exec_gainsKept` at KP, KI and KD, the second
`exec_alikeButGains`. -/
theorem gainsActOnlyThroughInit : Obligations.GainsActOnlyThroughInit := by
  refine ⟨fun i s t n g not_wrreg ht => ?_, fun _ _ _ same reads => exec_alikeButGains same reads⟩
  have kept := exec_gainsKept not_wrreg ht n
  exact ⟨kept _ rfl, kept _ rfl, kept _ rfl⟩

end Sys2Proof.Machine
end
